-- ==== Sys2Proof/Word.lean ====
section
/-! DEFINITION. The words of the machine: bytes of memory, the register cell, the 32-bit instruction word.

A register cell is 64 bits wide whatever XLEN is (00_scope.md R6: XLEN is 32 or 64); with XLEN = 32 the upper half of
every XLEN-bit register is 0, which every write keeps (`Wf` in Sys2Proof/Safety.lean states it). -/

namespace Sys2Proof

/-- One byte of memory. -/
abbrev Byte := BitVec 8

/-- The cell of an XLEN-bit register (00_scope.md R6, R9): all 64 bits for XLEN = 64, the low 32 for XLEN = 32. -/
abbrev Word := BitVec 64

/-- A 32-bit instruction word (30_encoding.md R200). -/
abbrev InstrWord := BitVec 32

end Sys2Proof
end

