-- ==== Sys2Proof/Syntax.lean ====
section
/-! DEFINITION. The syntax of the machine: one constructor per row of spec/opcode_table.json.

The six RDxxx rows are assembler names for CSRRS words (30_encoding.md R205). The table has a row for each, so each has a
constructor; its words decode to that constructor and to nothing else, and its meaning is that of the CSRRS it abbreviates
(log entry 2). -/

namespace Sys2Proof

/-- The number of an integer register: the 5-bit fields `rd` and `rs1` (30_encoding.md R201). -/
abbrev Reg := BitVec 5

/-- A 12-bit CSR address, any of the 4096, existing or not (10_state.md R24). -/
abbrev CsrAddr := BitVec 12

/-- The 5-bit immediate of CSRRWI, CSRRSI and CSRRCI (30_encoding.md R202). -/
abbrev Zimm := BitVec 5

/-- The instructions of spec/opcode_table.json, in the table's order. -/
inductive Instr where
  /-- CSRRW, Atomic Read/Write CSR (40_csr_instructions.md R231). -/
  | csrrw (rd : Reg) (csr : CsrAddr) (rs1 : Reg)
  /-- CSRRS, Atomic Read and Set CSR (R232). -/
  | csrrs (rd : Reg) (csr : CsrAddr) (rs1 : Reg)
  /-- CSRRC, Atomic Read and Clear CSR (R233). -/
  | csrrc (rd : Reg) (csr : CsrAddr) (rs1 : Reg)
  /-- CSRRWI (R234). -/
  | csrrwi (rd : Reg) (csr : CsrAddr) (zimm : Zimm)
  /-- CSRRSI (R235). -/
  | csrrsi (rd : Reg) (csr : CsrAddr) (zimm : Zimm)
  /-- CSRRCI (R236). -/
  | csrrci (rd : Reg) (csr : CsrAddr) (zimm : Zimm)
  /-- MRET (42_trap_return.md R281). -/
  | mret
  /-- SRET (R282). -/
  | sret
  /-- URET (R283). -/
  | uret
  /-- RDCYCLE (41_counter_pseudo.md R261). -/
  | rdcycle (rd : Reg)
  /-- RDCYCLEH (R262). -/
  | rdcycleh (rd : Reg)
  /-- RDTIME (R263). -/
  | rdtime (rd : Reg)
  /-- RDTIMEH (R264). -/
  | rdtimeh (rd : Reg)
  /-- RDINSTRET (R265). -/
  | rdinstret (rd : Reg)
  /-- RDINSTRETH (R266). -/
  | rdinstreth (rd : Reg)
  deriving DecidableEq, Repr

end Sys2Proof
end

