-- ==== Sys2Proof/WellFormed.lean ====
section
/-! DEFINITION. Which instruction terms are well formed: those the decoder can answer.

Every field value of every constructor is an encoding of it (30_encoding.md R200 to R202), with one exception: the words of
the six counter pseudo-instructions are also CSRRS words (R205), and the term for such a word is the RDxxx constructor. -/

namespace Sys2Proof

/-- The CSR addresses of the six counter pseudo-instructions (30_encoding.md R205). -/
def isCounterAddr (a : CsrAddr) : Bool :=
  a == 0xC00#12 || a == 0xC80#12 || a == 0xC01#12 || a == 0xC81#12 || a == 0xC02#12 || a == 0xC82#12

/-- Well-formed terms: a CSRRS that does not write and names one of the six counters is written as its RDxxx constructor
(30_encoding.md R205: nobody decodes such a word twice). -/
def Instr.wellFormed : Instr → Bool
  | .csrrs _ csr rs1 => !(rs1 == 0#5 && isCounterAddr csr)
  | .csrrw _ _ _ | .csrrc _ _ _ | .csrrwi _ _ _ | .csrrsi _ _ _ | .csrrci _ _ _ => true
  | .mret | .sret | .uret => true
  | .rdcycle _ | .rdcycleh _ | .rdtime _ | .rdtimeh _ | .rdinstret _ | .rdinstreth _ => true

end Sys2Proof
end

