-- ==== Sys2Proof/Decode.lean ====
section
/-! DEFINITION. Decoding instruction words and encoding instructions (30_encoding.md R200 to R207).

The decoder is total on any bytes: it answers an instruction or rejects by name. The encoder is written from the same tables
(R204: `(csr << 20) | (rs1_or_zimm << 15) | (funct3 << 12) | (rd << 7) | 0x73`; R205; R206). -/

namespace Sys2Proof

/-- Why bytes are no instruction of this spec (30_encoding.md R207). -/
inductive DecodeError where
  /-- Fewer than four bytes. -/
  | truncated
  /-- Bits 1:0 are not `11`: a 16-bit parcel. -/
  | parcel16
  /-- A 32-bit word that matches no row of R204, R205 or R206. -/
  | notInTable
  deriving DecidableEq, Repr

/-- The major opcode SYSTEM, bits 6:0 (R203). -/
def opcodeSystem : BitVec 7 := 0x73#7

/-- The one format (R200): csr, rs1 or zimm, funct3, rd, opcode, from bit 31 down. -/
def encodeFields (csr : CsrAddr) (f : BitVec 5) (funct3 : BitVec 3) (rd : Reg) : InstrWord :=
  csr ++ (f ++ (funct3 ++ (rd ++ opcodeSystem)))

/-- The word of an instruction. -/
def encode : Instr → InstrWord
  | .csrrw rd csr rs1 => encodeFields csr rs1 1#3 rd
  | .csrrs rd csr rs1 => encodeFields csr rs1 2#3 rd
  | .csrrc rd csr rs1 => encodeFields csr rs1 3#3 rd
  | .csrrwi rd csr zimm => encodeFields csr zimm 5#3 rd
  | .csrrsi rd csr zimm => encodeFields csr zimm 6#3 rd
  | .csrrci rd csr zimm => encodeFields csr zimm 7#3 rd
  | .mret => 0x30200073#32
  | .sret => 0x10200073#32
  | .uret => 0x00200073#32
  | .rdcycle rd => encodeFields 0xC00#12 0#5 2#3 rd
  | .rdcycleh rd => encodeFields 0xC80#12 0#5 2#3 rd
  | .rdtime rd => encodeFields 0xC01#12 0#5 2#3 rd
  | .rdtimeh rd => encodeFields 0xC81#12 0#5 2#3 rd
  | .rdinstret rd => encodeFields 0xC02#12 0#5 2#3 rd
  | .rdinstreth rd => encodeFields 0xC82#12 0#5 2#3 rd

/-- The `csr` field, bits 31:20 (R200). -/
def fieldCsr (w : InstrWord) : CsrAddr := w.extractLsb' 20 12

/-- The `rs1` or `zimm` field, bits 19:15 (R200, R202). -/
def fieldRs1 (w : InstrWord) : BitVec 5 := w.extractLsb' 15 5

/-- The `funct3` field, bits 14:12 (R200). -/
def fieldFunct3 (w : InstrWord) : BitVec 3 := w.extractLsb' 12 3

/-- The `rd` field, bits 11:7 (R200). -/
def fieldRd (w : InstrWord) : Reg := w.extractLsb' 7 5

/-- The `opcode` field, bits 6:0 (R200). -/
def fieldOpcode (w : InstrWord) : BitVec 7 := w.extractLsb' 0 7

/-- The words with `funct3` = 010 (R204, R205): CSRRS, or the counter pseudo-instruction that the word spells. -/
def decodeReadSet (rd : Reg) (csr : CsrAddr) (rs1 : Reg) : Instr :=
  if rs1 = 0#5 then
    if csr = 0xC00#12 then .rdcycle rd
    else if csr = 0xC80#12 then .rdcycleh rd
    else if csr = 0xC01#12 then .rdtime rd
    else if csr = 0xC81#12 then .rdtimeh rd
    else if csr = 0xC02#12 then .rdinstret rd
    else if csr = 0xC82#12 then .rdinstreth rd
    else .csrrs rd csr rs1
  else .csrrs rd csr rs1

/-- The words with `funct3` = 000 (R206): three fixed words, nothing else. -/
def decodeFixed (w : InstrWord) : Except DecodeError Instr :=
  if w = 0x30200073#32 then .ok .mret
  else if w = 0x10200073#32 then .ok .sret
  else if w = 0x00200073#32 then .ok .uret
  else .error .notInTable

/-- The instruction a word spells, or why there is none (R203 to R207). -/
def decodeWord (w : InstrWord) : Except DecodeError Instr :=
  if w.extractLsb' 0 2 ≠ 3#2 then .error .parcel16
  else if fieldOpcode w ≠ opcodeSystem then .error .notInTable
  else if fieldFunct3 w = 0#3 then decodeFixed w
  else if fieldFunct3 w = 1#3 then .ok (.csrrw (fieldRd w) (fieldCsr w) (fieldRs1 w))
  else if fieldFunct3 w = 2#3 then .ok (decodeReadSet (fieldRd w) (fieldCsr w) (fieldRs1 w))
  else if fieldFunct3 w = 3#3 then .ok (.csrrc (fieldRd w) (fieldCsr w) (fieldRs1 w))
  else if fieldFunct3 w = 5#3 then .ok (.csrrwi (fieldRd w) (fieldCsr w) (fieldRs1 w))
  else if fieldFunct3 w = 6#3 then .ok (.csrrsi (fieldRd w) (fieldCsr w) (fieldRs1 w))
  else if fieldFunct3 w = 7#3 then .ok (.csrrci (fieldRd w) (fieldCsr w) (fieldRs1 w))
  else .error .notInTable

/-- The four bytes of a word, the byte at the lowest address first (20_memory.md R162: little-endian). -/
def wordBytes (w : InstrWord) : List Byte :=
  [w.extractLsb' 0 8, w.extractLsb' 8 8, w.extractLsb' 16 8, w.extractLsb' 24 8]

/-- The word that four bytes assemble to, the byte at the lowest address in bits 7:0 (20_memory.md R162). -/
def bytesWord (b0 b1 b2 b3 : Byte) : InstrWord := b3 ++ (b2 ++ (b1 ++ b0))

/-- The instruction that bytes begin with and the bytes after it, or why there is none. -/
def decodeBytes : List Byte → Except DecodeError (Instr × List Byte)
  | b0 :: b1 :: b2 :: b3 :: rest =>
    match decodeWord (bytesWord b0 b1 b2 b3) with
    | .ok i => .ok (i, rest)
    | .error e => .error e
  | _ => .error .truncated

/-- A table row's word as the table numbers its bits: the low `nbits` bits of `w`, every bit above them 0. -/
def tableWord (nbits w : Nat) : InstrWord := BitVec.ofNat 32 (w % 2 ^ nbits)

/-- The host's question: the instruction the decoder reads from the bytes of a table row's word. -/
def decodeTableWord (nbits w : Nat) : Option Instr :=
  match decodeBytes (wordBytes (tableWord nbits w)) with
  | .ok (i, _) => some i
  | .error _ => none

end Sys2Proof
end

