-- ==== Sys2Proof/Config.lean ====
section
/-! DEFINITION. The implementation parameters of 00_scope.md R6 as one plain record, the privilege modes they select, the
inputs the platform drives (10_state.md R23), and the model's free values, which are constants without a body.

The spec leaves XLEN, the set of modes, the number of PMP entries and the rest OPEN (92_eei_decisions.md D1, D2, D6, D22,
D25, D26): "The model takes the following parameters as arguments" (R6). The record stands in State, no step changes it, and
a statement about every state is a statement about every configuration. -/

namespace Sys2Proof

/-- The register width (00_scope.md R6, `XLEN`; 92_eei_decisions.md D1: 32 or 64, nothing else). -/
inductive Xlen where
  | rv32
  | rv64
  deriving DecidableEq, Repr

/-- The privilege modes (10_state.md R22), ordered U < S < M. -/
inductive Priv where
  | U
  | S
  | M
  deriving DecidableEq, Repr, Inhabited

/-- The parameters of 00_scope.md R6, one field each. -/
structure Config where
  /-- `XLEN`. -/
  xlen : Xlen
  /-- `HAS_U`: user mode implemented. -/
  hasU : Bool
  /-- `HAS_S`: supervisor mode implemented. -/
  hasS : Bool
  /-- `HAS_N`: user-level interrupts implemented. -/
  hasN : Bool
  /-- `HAS_RVC`: an extension with 16-bit instruction alignment is present. -/
  hasRvc : Bool
  /-- `MISA_EXT`: the Extensions field of `misa`. -/
  misaExt : BitVec 26
  /-- `MIMPID`: 0, 1 or 2 (00_scope.md R3). -/
  mimpid : Fin 3
  /-- `JEDEC_BANK`: continuation codes + 1. -/
  jedecBank : Nat
  /-- `JEDEC_MANUFACTURER_ID`: the final byte of the JEDEC id. -/
  jedecManufacturerId : BitVec 8
  /-- `PMP_CNT`: 0 to 16 implemented PMP entries. -/
  pmpCnt : Fin 17
  /-- `CSRRWI_ZIMM0_WRITES` (92_eei_decisions.md D4). -/
  csrrwiZimm0Writes : Bool
  /-- `TIME_CSR_TRAPS` (92_eei_decisions.md D16). -/
  timeCsrTraps : Bool
  /-- `HAS_SATP` (92_eei_decisions.md D21). -/
  hasSatp : Bool
  /-- `PC_INIT`: the pc after reset. -/
  pcInit : Word
  /-- `MTIMECMP_ADDR`; named for a model that adds the device, read by no rule in scope (D26). -/
  mtimecmpAddr : Nat
  /-- `MSIP_ADDR`; named for a model that adds the device, read by no rule in scope (D26). -/
  msipAddr : Nat
  /-- `DATA_LITTLE_ENDIAN`: byte order of data accesses (20_memory.md R163); used by no instruction in scope. -/
  dataLittleEndian : Bool
  /-- `IFETCH_SEES_STORES` (20_memory.md R183); used by no instruction in scope. -/
  ifetchSeesStores : Bool
  deriving DecidableEq, Repr

/-- XLEN as a number. -/
def Xlen.bits : Xlen → Nat
  | .rv32 => 32
  | .rv64 => 64

/-- The constraints between parameters: 00_scope.md R6 (`PC_INIT` is an XLEN-bit, 4-byte aligned value by
70_reset_and_hazards.md R372; `MISA_EXT` has bit 8 ("I") set for RV32I and RV64I and bit 4 ("E") set for RV32E, so that XLEN = 64
has I and has no E; a JEDEC bank counts from 1) and R7 (`HAS_S` implies `HAS_U`, `HAS_N` implies `HAS_U`, `MIMPID` = 0 implies no
`HAS_RVC`). Log entry 15. -/
structure Config.Legal (c : Config) : Prop where
  s_needs_u : c.hasS = true → c.hasU = true
  n_needs_u : c.hasN = true → c.hasU = true
  v0_has_no_rvc : c.mimpid = 0 → c.hasRvc = false
  base_named : c.misaExt.getLsbD 8 = true ∨ (c.xlen = .rv32 ∧ c.misaExt.getLsbD 4 = true)
  e_needs_rv32 : c.misaExt.getLsbD 4 = true → c.xlen = .rv32
  bank_counts_from_one : 1 ≤ c.jedecBank
  pc_init_fits : c.pcInit.toNat < 2 ^ c.xlen.bits
  pc_init_aligned : c.pcInit.extractLsb' 0 2 = 0#2

/-- The spec's test configuration T32 (95_test_vectors.md section 0). `State.reset` uses it; DESIGN CHOICE, log entry 1. -/
def Config.t32 : Config where
  xlen := .rv32
  hasU := true
  hasS := true
  hasN := true
  hasRvc := false
  misaExt := 0x0142100#26
  mimpid := 0
  jedecBank := 10
  jedecManufacturerId := 0x6E#8
  pmpCnt := 16
  csrrwiZimm0Writes := false
  timeCsrTraps := true
  hasSatp := false
  pcInit := 0#64
  mtimecmpAddr := 0
  msipAddr := 0
  dataLittleEndian := true
  ifetchSeesStores := false

/-- What the platform drives (10_state.md R23) at one step: five interrupt lines, the non-maskable one, the real-time counter,
and the drawn number of cycles by which `mcycle64` advances (10_state.md R74, modulo 2^64). -/
structure Inputs where
  /-- `ext.meip`: machine external interrupt. -/
  meip : Bool
  /-- `ext.seip`: the interrupt controller's supervisor signal. -/
  seip : Bool
  /-- `ext.ueip`: the interrupt controller's user signal. -/
  ueip : Bool
  /-- `ext.mtip`: machine timer interrupt. -/
  mtip : Bool
  /-- `ext.msip`: machine software interrupt. -/
  msip : Bool
  /-- `ext.nmi`: never asserted (60_exceptions.md R340; 70_reset_and_hazards.md R372). -/
  nmi : Bool
  /-- `ext.time`: the 64-bit real-time counter, which never decreases (11_state_supervisor_user_pmp.md R125). -/
  time : BitVec 64
  /-- The drawn number of cycles (10_state.md R74; 92_eei_decisions.md D20). -/
  cycles : BitVec 64
  deriving DecidableEq, Repr, Inhabited

/-- FREE VALUE: what the platform drives at step number `tick` when nothing has scheduled it: "a fresh draw at every step,
under no law except where stated" (10_state.md R23). It has no body: nothing can be proved of it. Log entry 3. -/
opaque Config.drawInputs (tick : Nat) : Inputs

/-- FREE VALUE: what a read of `mcause` (`p = M`) or `ucause` (`p = U`) returns while the register holds a software-written
value that is no row of the cause table: "a later read returns an unconstrained XLEN-bit value"
(93_implementation_defined.md U4; 10_state.md R70; 11_state_supervisor_user_pmp.md R121). Log entry 5. -/
opaque Config.unlistedCause (p : Priv) (stored : Word) (tick : Nat) : Word

end Sys2Proof
end

