-- ==== Sys2Proof/Machine/State.lean ====
section
/-! DEFINITION. The state of the hart (10_state.md, 11_state_supervisor_user_pmp.md), why a step can stop, and the state
after reset (70_reset_and_hazards.md R372).

State is plain data. A CSR that is a view of another (`sstatus`, `sie`, `sip`, `ustatus`, `uie`, `uip`, `cycle`, `instret`)
or a constant (`misa`, `mvendorid`, ...) has no field: the spec gives it no stored state. -/

namespace Sys2Proof.Machine

/-- Physical memory as (address, byte) pairs, addresses strictly rising (`Memory.wf`). -/
abbrev Memory := List Host.Cell

/-- The interrupt sources of 60_exceptions.md R310. -/
inductive Interrupt where
  | userSoftware
  | supervisorSoftware
  | machineSoftware
  | userTimer
  | supervisorTimer
  | machineTimer
  | userExternal
  | supervisorExternal
  | machineExternal
  deriving DecidableEq, Repr

/-- The exceptions of 60_exceptions.md R300 (the non-reserved codes of 10_state.md R71 with Interrupt bit 0). -/
inductive Exception where
  | instructionMisaligned
  | instructionAccessFault
  | illegalInstruction
  | breakpoint
  | loadMisaligned
  | loadAccessFault
  | storeMisaligned
  | storeAccessFault
  | ecallFromU
  | ecallFromS
  | ecallFromM
  | instructionPageFault
  | loadPageFault
  | storePageFault
  deriving DecidableEq, Repr

/-- What causes a trap: an interrupt or an exception (60_exceptions.md R320). -/
inductive TrapCause where
  | interrupt (i : Interrupt)
  | exception (e : Exception)
  deriving DecidableEq, Repr

/-- The kinds of memory access the PMP check distinguishes: R, W and X of 20_memory.md R172. -/
inductive AccessType where
  | load
  | store
  | fetch
  deriving DecidableEq, Repr

/-- The verdict of the PMP check (20_memory.md R172). -/
inductive Verdict where
  | ok
  | fail
  deriving DecidableEq, Repr

/-- The hart with its memory and its surroundings at one moment between two steps. -/
structure State where
  /-- The implementation parameters (00_scope.md R6); no step changes them. -/
  cfg : Config
  /-- Integer registers (10_state.md R20); `x[0]` is read and written through `readX` and `setX` only. -/
  x : Vector Word 32
  /-- Program counter (10_state.md R21). -/
  pc : Word
  /-- Current privilege mode (10_state.md R22). -/
  priv : Priv
  /-- The stored bits of `mstatus` at their positions (10_state.md R45, R56). -/
  mstatus : Word
  /-- `mtvec` (10_state.md R57). -/
  mtvec : Word
  /-- `medeleg` (10_state.md R59). -/
  medeleg : Word
  /-- `mideleg` (10_state.md R60). -/
  mideleg : Word
  /-- `mie` (10_state.md R62). -/
  mie : Word
  /-- `mip_sw`: the software-writable pending bits at their `mip` positions (10_state.md R63). -/
  mipSw : Word
  /-- `mnmivec` (10_state.md R67). -/
  mnmivec : Word
  /-- `mscratch` (10_state.md R68). -/
  mscratch : Word
  /-- `mepc` (10_state.md R69). -/
  mepc : Word
  /-- `mcause` (10_state.md R70). -/
  mcause : Word
  /-- `mtval` (10_state.md R72). -/
  mtval : Word
  /-- `mcounteren`, a 32-bit register (10_state.md R73). -/
  mcounteren : BitVec 32
  /-- `mcycle64` (10_state.md R74). -/
  mcycle : BitVec 64
  /-- `minstret64` (10_state.md R75). -/
  minstret : BitVec 64
  /-- `sedeleg` (11_state_supervisor_user_pmp.md R103). -/
  sedeleg : Word
  /-- `sideleg` (R104). -/
  sideleg : Word
  /-- `stvec` (R108). -/
  stvec : Word
  /-- `sscratch` (R109). -/
  sscratch : Word
  /-- `sepc` (R110). -/
  sepc : Word
  /-- `scause` (R111). -/
  scause : Word
  /-- `stval` (R112). -/
  stval : Word
  /-- `scounteren`, a 32-bit register (R113). -/
  scounteren : BitVec 32
  /-- `satp`, which exists only with `HAS_SATP` (R114). -/
  satp : Word
  /-- `utvec` (R118). -/
  utvec : Word
  /-- `uscratch` (R119). -/
  uscratch : Word
  /-- `uepc` (R120). -/
  uepc : Word
  /-- `ucause` (R121). -/
  ucause : Word
  /-- `utval` (R122). -/
  utval : Word
  /-- `pmpcfg[0]` .. `pmpcfg[15]` (R130, R131). -/
  pmpcfg : Vector (BitVec 8) 16
  /-- `pmpaddr[0]` .. `pmpaddr[15]` (R132). -/
  pmpaddr : Vector Word 16
  /-- Physical memory (20_memory.md R160, R161). -/
  mem : Memory
  /-- The inputs the coming step samples (10_state.md R23). -/
  env : Inputs
  /-- THE MODEL'S OWN: inputs scheduled for the steps after the coming one; when the list is empty the next inputs are the
  free value `Config.drawInputs`. Log entry 3. -/
  scheduled : List Inputs
  /-- THE MODEL'S OWN: the number of the coming step, the argument of the free values. Log entries 3 and 5. -/
  tick : Nat
  deriving DecidableEq, Repr

/-- Why the machine stops with a fault: never. The spec gives this hart no stop of its own ("no double-fault, lockup or
machine-check state", 60_exceptions.md R322) and every case it leaves without meaning it tells the model to REFUSE
(93_implementation_defined.md U3, U9, U14, U15), so the type has no constructor and no step answers `fault`. Safe. -/
inductive Fault where
  deriving DecidableEq, Repr

/-- Why the model gives a step no meaning. -/
inductive Refusal where
  /-- An arm of `exec` whose instruction has no meaning yet: no arm answers it in this package. Safe. -/
  | notModelled (mnemonic : String)
  /-- Raised by a CSR write that would leave MPP naming a mode that is not implemented, and by MRET (or an MPRV access) that
  would use one: "the model refuses such a write (gives the step no meaning)" (10_state.md R49; 42_trap_return.md R281;
  93_implementation_defined.md U3). Safe. -/
  | illegalPreviousMode
  /-- Raised by the fetch where memory holds no byte: "If the platform has no memory at that address the result is not defined
  by the source; the model refuses the step" (20_memory.md R162; 93_implementation_defined.md U9). Safe. -/
  | absentMemory
  /-- Raised by decode for a parcel whose bits 1:0 are not `11` (20_memory.md R162; 30_encoding.md R207). Safe. -/
  | parcel16
  /-- Raised by decode for a 32-bit word that is not in the opcode table: "The model must refuse such a word (give the step no
  meaning)" (30_encoding.md R207; 93_implementation_defined.md U14). Safe. -/
  | wordNotInTable
  /-- Raised by a step at which `ext.nmi` is asserted, which never happens in a run: "the model assumes it is never asserted"
  (93_implementation_defined.md U15; 60_exceptions.md R340). Safe. -/
  | nonMaskableInterrupt
  deriving DecidableEq, Repr

/-- The inputs of a quiet platform: no line asserted, time 0, no cycle drawn. -/
def quietInputs : Inputs where
  meip := false
  seip := false
  ueip := false
  mtip := false
  msip := false
  nmi := false
  time := 0#64
  cycles := 0#64

/-- The state after reset for a given configuration (70_reset_and_hazards.md R372): `pc` = `PC_INIT`, `priv` = M, MIE = 0,
MPRV = 0, every PMP entry unlocked and OFF; memory with nothing listed; every element the table calls "unspecified" at 0 (log
entry 4), MPP at a mode that is implemented. -/
def State.initial (c : Config) : State where
  cfg := c
  x := Vector.replicate 32 0#64
  pc := c.pcInit
  priv := .M
  mstatus := if c.hasU then 0x0#64 else 0x1800#64
  mtvec := 0#64
  medeleg := 0#64
  mideleg := 0#64
  mie := 0#64
  mipSw := 0#64
  mnmivec := 0#64
  mscratch := 0#64
  mepc := 0#64
  mcause := 0#64
  mtval := 0#64
  mcounteren := 0#32
  mcycle := 0#64
  minstret := 0#64
  sedeleg := 0#64
  sideleg := 0#64
  stvec := 0#64
  sscratch := 0#64
  sepc := 0#64
  scause := 0#64
  stval := 0#64
  scounteren := 0#32
  satp := 0#64
  utvec := 0#64
  uscratch := 0#64
  uepc := 0#64
  ucause := 0#64
  utval := 0#64
  pmpcfg := Vector.replicate 16 0#8
  pmpaddr := Vector.replicate 16 0#64
  mem := []
  env := quietInputs
  scheduled := []
  tick := 0

/-- The machine right after reset, in the spec's test configuration T32 (log entries 1 and 4). -/
def State.reset : State := State.initial Config.t32

end Sys2Proof.Machine
end

