-- ==== Sys2Proof/Machine/Flags.lean ====
section
/-! DEFINITION. Bits and fields: the XLEN masking, the writable-bit masks of the registers, the fields of `mstatus` and their
two-level stack, and the legal values of fields.

This hardware has no condition flags (40_csr_instructions.md, head: "there are no condition flags in this hardware"); the flags
it has are the status bits of `mstatus`, written by trap entry, by xRET and by CSR writes. -/

namespace Sys2Proof.Machine

/-- The XLEN-bit value in a register cell: the low 32 bits for XLEN = 32, all 64 for XLEN = 64 (00_scope.md R6, R9). -/
def truncXlen (c : Config) (v : Word) : Word :=
  match c.xlen with
  | .rv32 => v &&& 0xFFFFFFFF#64
  | .rv64 => v

/-- `m` where the condition holds, nothing where it does not: a group of bits that exists under a parameter. -/
def maskIf (b : Bool) (m : Word) : Word := if b then m else 0#64

/-- A write that reaches exactly the bits of `mask`: `(old & ~mask) | (v & mask)` (10_state.md R30). -/
def mergeBits (old v mask : Word) : Word := (old &&& ~~~mask) ||| (v &&& mask)

/-- Bit `n` of a register replaced by `b`. -/
def setBit (w : Word) (n : Nat) (b : Bool) : Word := mergeBits w (if b then 1#64 <<< n else 0#64) (1#64 <<< n)

/-- The stored bits of `mstatus` (10_state.md R56): MIE, MPIE, MPP always; SIE, SPIE, SPP, SUM, MXR with S; UIE, UPIE with N;
MPRV with U. -/
def mstatusMask (c : Config) : Word :=
  0x1888#64 ||| maskIf c.hasS 0xC0122#64 ||| maskIf c.hasN 0x11#64 ||| maskIf c.hasU 0x20000#64

/-- The hardwired non-zero bits of `mstatus`: SXL = 2 with S and UXL = 2 with U, for XLEN = 64 only (10_state.md R51). -/
def mstatusHardwired (c : Config) : Word :=
  match c.xlen with
  | .rv32 => 0#64
  | .rv64 => maskIf c.hasS (2#64 <<< 34) ||| maskIf c.hasU (2#64 <<< 32)

/-- The bits of `sstatus` that show `mstatus` (11_state_supervisor_user_pmp.md R100). -/
def sstatusBits : Word := 0x40133#64

/-- The bits of `ustatus` that show `mstatus` (11_state_supervisor_user_pmp.md R115). -/
def ustatusBits : Word := 0x11#64

/-- The stored bits of `medeleg`: the defined exception codes, when a lower mode can handle a trap (10_state.md R59). -/
def medelegMask (c : Config) : Word := maskIf (c.hasS || c.hasN) 0xBBFF#64

/-- The stored bits of `mideleg` (10_state.md R60). -/
def midelegMask (c : Config) : Word := maskIf c.hasS 0x222#64 ||| maskIf c.hasN 0x111#64

/-- The stored bits of `sedeleg` (11_state_supervisor_user_pmp.md R103). -/
def sedelegMask (c : Config) : Word := maskIf c.hasN 0xBBFF#64

/-- The stored bits of `sideleg` (11_state_supervisor_user_pmp.md R104). -/
def sidelegMask (c : Config) : Word := maskIf c.hasN 0x111#64

/-- The stored bits of `mie` (10_state.md R62). -/
def mieMask (c : Config) : Word := 0x888#64 ||| maskIf c.hasS 0x222#64 ||| maskIf c.hasN 0x111#64

/-- The software-writable bits of `mip` (10_state.md R63, R66). -/
def mipSwMask (c : Config) : Word := maskIf c.hasS 0x222#64 ||| maskIf c.hasN 0x111#64

/-- The legal value of an xtvec register: BASE as written, MODE bit 1 hardwired to 0 (10_state.md R57, R58). -/
def tvecLegal (c : Config) (v : Word) : Word := truncXlen c v &&& ~~~2#64

/-- The legal value of an xepc register: bit 0 always 0, bit 1 always 0 unless `HAS_RVC` (10_state.md R69). -/
def epcLegal (c : Config) (v : Word) : Word := truncXlen c v &&& ~~~(if c.hasRvc then 1#64 else 3#64)

/-- The stored bits CY, TM, IR of a counter-enable register (10_state.md R73; 11_state_supervisor_user_pmp.md R113). -/
def counterenLegal (v : Word) : BitVec 32 := v.setWidth 32 &&& 7#32

/-- The stored bits of a `pmpaddr` register: 32 for XLEN = 32, 54 for XLEN = 64 (11_state_supervisor_user_pmp.md R132). -/
def pmpaddrLegal (c : Config) (v : Word) : Word :=
  match c.xlen with
  | .rv32 => v &&& 0xFFFFFFFF#64
  | .rv64 => v &&& 0x003FFFFFFFFFFFFF#64

/-- The code of a mode where a field stores one: U = 0, S = 1, M = 3 (00_scope.md R12). -/
def privCode : Priv → BitVec 2
  | .U => 0#2
  | .S => 1#2
  | .M => 3#2

/-- The order U < S < M, as `a <= b` (10_state.md R22). -/
def privLe (a b : Priv) : Bool := (privCode a).toNat ≤ (privCode b).toNat

/-- The modes a configuration implements (10_state.md R22; 60_exceptions.md R345). -/
def hasMode (c : Config) : Priv → Bool
  | .U => c.hasU
  | .S => c.hasS
  | .M => true

/-- The implemented mode that a two-bit code names, if it names one (10_state.md R49). -/
def modeOfCode (c : Config) (code : BitVec 2) : Option Priv :=
  if code = 3#2 then some .M
  else if code = 1#2 then (if c.hasS then some .S else none)
  else if code = 0#2 then (if c.hasU then some .U else none)
  else none

/-- Whether MPP may hold a code (10_state.md R49). -/
def mppLegal (c : Config) (code : BitVec 2) : Bool := (modeOfCode c code).isSome

/-- The positions of the `mstatus` bits (10_state.md R45). -/
def bitUIE : Nat := 0
/-- SIE, `mstatus` bit 1. -/
def bitSIE : Nat := 1
/-- MIE, `mstatus` bit 3. -/
def bitMIE : Nat := 3
/-- UPIE, `mstatus` bit 4. -/
def bitUPIE : Nat := 4
/-- SPIE, `mstatus` bit 5. -/
def bitSPIE : Nat := 5
/-- MPIE, `mstatus` bit 7. -/
def bitMPIE : Nat := 7
/-- SPP, `mstatus` bit 8. -/
def bitSPP : Nat := 8
/-- MPRV, `mstatus` bit 17. -/
def bitMPRV : Nat := 17

/-- The MPP field, `mstatus` bits 12:11 (10_state.md R45, R48). -/
def getMpp (m : Word) : BitVec 2 := m.extractLsb' 11 2

/-- `mstatus` with MPP replaced. -/
def setMpp (m : Word) (code : BitVec 2) : Word := mergeBits m (code.setWidth 64 <<< 11) 0x1800#64

/-- xIE of a mode (10_state.md R47). -/
def getIE (m : Word) : Priv → Bool
  | .U => m.getLsbD bitUIE
  | .S => m.getLsbD bitSIE
  | .M => m.getLsbD bitMIE

/-- The `mstatus` part of trap entry from mode `y` into mode `x`: xPIE takes xIE, xIE becomes 0, xPP takes `y`
(60_exceptions.md R320; SPP is 0 if `y` is U, else 1; there is no UPP). -/
def pushStack (m : Word) (x y : Priv) : Word :=
  match x with
  | .M => setMpp (setBit (setBit m bitMPIE (m.getLsbD bitMIE)) bitMIE false) (privCode y)
  | .S => setBit (setBit (setBit m bitSPIE (m.getLsbD bitSIE)) bitSIE false) bitSPP (y != .U)
  | .U => setBit (setBit m bitUPIE (m.getLsbD bitUIE)) bitUIE false

/-- The `mstatus` part of xRET: xIE takes xPIE, xPIE becomes 1, xPP becomes U, or M if user mode is not supported
(42_trap_return.md R280 to R283). -/
def popStack (c : Config) (m : Word) (x : Priv) : Word :=
  match x with
  | .M => setMpp (setBit (setBit m bitMIE (m.getLsbD bitMPIE)) bitMPIE true) (if c.hasU then privCode .U else privCode .M)
  | .S => setBit (setBit (setBit m bitSIE (m.getLsbD bitSPIE)) bitSPIE true) bitSPP false
  | .U => setBit (setBit m bitUIE (m.getLsbD bitUPIE)) bitUPIE true

end Sys2Proof.Machine
end

