-- ==== Sys2Proof/Machine/CsrMap.lean ====
section
/-! DEFINITION. The CSR address map: which CSR stands at which of the 4096 addresses, when it exists, the lowest mode that may
access it, and whether it is read-only (10_state.md R24 to R27). -/

namespace Sys2Proof.Machine

/-- The CSRs of 10_state.md R25, one constructor per row; a contiguous family carries its index (`k` stands for n = k + 3). -/
inductive Csr where
  | mvendorid
  | marchid
  | mimpid
  | mhartid
  | mstatus
  | misa
  | medeleg
  | mideleg
  | mie
  | mtvec
  | mcounteren
  | mnmivec
  | mscratch
  | mepc
  | mcause
  | mtval
  | mip
  | mcycle
  | minstret
  | mhpmcounter (k : Fin 29)
  | mcycleh
  | minstreth
  | mhpmcounterh (k : Fin 29)
  | mhpevent (k : Fin 29)
  | sstatus
  | sedeleg
  | sideleg
  | sie
  | stvec
  | scounteren
  | sscratch
  | sepc
  | scause
  | stval
  | sip
  | ustatus
  | uie
  | utvec
  | uscratch
  | uepc
  | ucause
  | utval
  | uip
  | cycle
  | time
  | instret
  | hpmcounter (k : Fin 29)
  | cycleh
  | timeh
  | instreth
  | hpmcounterh (k : Fin 29)
  | pmpcfg (k : Fin 4)
  | pmpaddr (i : Fin 16)
  | satp
  deriving DecidableEq, Repr

/-- The address of a CSR (10_state.md R25). -/
def csrAddress : Csr → CsrAddr
  | .mvendorid => 0xF11#12
  | .marchid => 0xF12#12
  | .mimpid => 0xF13#12
  | .mhartid => 0xF14#12
  | .mstatus => 0x300#12
  | .misa => 0x301#12
  | .medeleg => 0x302#12
  | .mideleg => 0x303#12
  | .mie => 0x304#12
  | .mtvec => 0x305#12
  | .mcounteren => 0x306#12
  | .mnmivec => 0x7C0#12
  | .mscratch => 0x340#12
  | .mepc => 0x341#12
  | .mcause => 0x342#12
  | .mtval => 0x343#12
  | .mip => 0x344#12
  | .mcycle => 0xB00#12
  | .minstret => 0xB02#12
  | .mhpmcounter k => BitVec.ofNat 12 (0xB03 + k.val)
  | .mcycleh => 0xB80#12
  | .minstreth => 0xB82#12
  | .mhpmcounterh k => BitVec.ofNat 12 (0xB83 + k.val)
  | .mhpevent k => BitVec.ofNat 12 (0x323 + k.val)
  | .sstatus => 0x100#12
  | .sedeleg => 0x102#12
  | .sideleg => 0x103#12
  | .sie => 0x104#12
  | .stvec => 0x105#12
  | .scounteren => 0x106#12
  | .sscratch => 0x140#12
  | .sepc => 0x141#12
  | .scause => 0x142#12
  | .stval => 0x143#12
  | .sip => 0x144#12
  | .ustatus => 0x000#12
  | .uie => 0x004#12
  | .utvec => 0x005#12
  | .uscratch => 0x040#12
  | .uepc => 0x041#12
  | .ucause => 0x042#12
  | .utval => 0x043#12
  | .uip => 0x044#12
  | .cycle => 0xC00#12
  | .time => 0xC01#12
  | .instret => 0xC02#12
  | .hpmcounter k => BitVec.ofNat 12 (0xC03 + k.val)
  | .cycleh => 0xC80#12
  | .timeh => 0xC81#12
  | .instreth => 0xC82#12
  | .hpmcounterh k => BitVec.ofNat 12 (0xC83 + k.val)
  | .pmpcfg k => BitVec.ofNat 12 (0x3A0 + k.val)
  | .pmpaddr i => BitVec.ofNat 12 (0x3B0 + i.val)
  | .satp => 0x180#12

/-- The CSR of a contiguous family at an address (10_state.md R25). -/
def csrFamilyAt (n : Nat) : Option Csr :=
  if h : 0xB03 ≤ n ∧ n - 0xB03 < 29 then some (.mhpmcounter ⟨n - 0xB03, h.2⟩)
  else if h : 0xB83 ≤ n ∧ n - 0xB83 < 29 then some (.mhpmcounterh ⟨n - 0xB83, h.2⟩)
  else if h : 0x323 ≤ n ∧ n - 0x323 < 29 then some (.mhpevent ⟨n - 0x323, h.2⟩)
  else if h : 0xC03 ≤ n ∧ n - 0xC03 < 29 then some (.hpmcounter ⟨n - 0xC03, h.2⟩)
  else if h : 0xC83 ≤ n ∧ n - 0xC83 < 29 then some (.hpmcounterh ⟨n - 0xC83, h.2⟩)
  else if h : 0x3A0 ≤ n ∧ n - 0x3A0 < 4 then some (.pmpcfg ⟨n - 0x3A0, h.2⟩)
  else if h : 0x3B0 ≤ n ∧ n - 0x3B0 < 16 then some (.pmpaddr ⟨n - 0x3B0, h.2⟩)
  else none

/-- The CSR at an address, in any configuration (10_state.md R25); an address of no row is a "non-existing CSR" (R24). -/
def csrAt (a : CsrAddr) : Option Csr :=
  match a.toNat with
  | 0xF11 => some .mvendorid
  | 0xF12 => some .marchid
  | 0xF13 => some .mimpid
  | 0xF14 => some .mhartid
  | 0x300 => some .mstatus
  | 0x301 => some .misa
  | 0x302 => some .medeleg
  | 0x303 => some .mideleg
  | 0x304 => some .mie
  | 0x305 => some .mtvec
  | 0x306 => some .mcounteren
  | 0x7C0 => some .mnmivec
  | 0x340 => some .mscratch
  | 0x341 => some .mepc
  | 0x342 => some .mcause
  | 0x343 => some .mtval
  | 0x344 => some .mip
  | 0xB00 => some .mcycle
  | 0xB02 => some .minstret
  | 0xB80 => some .mcycleh
  | 0xB82 => some .minstreth
  | 0x100 => some .sstatus
  | 0x102 => some .sedeleg
  | 0x103 => some .sideleg
  | 0x104 => some .sie
  | 0x105 => some .stvec
  | 0x106 => some .scounteren
  | 0x140 => some .sscratch
  | 0x141 => some .sepc
  | 0x142 => some .scause
  | 0x143 => some .stval
  | 0x144 => some .sip
  | 0x000 => some .ustatus
  | 0x004 => some .uie
  | 0x005 => some .utvec
  | 0x040 => some .uscratch
  | 0x041 => some .uepc
  | 0x042 => some .ucause
  | 0x043 => some .utval
  | 0x044 => some .uip
  | 0xC00 => some .cycle
  | 0xC01 => some .time
  | 0xC02 => some .instret
  | 0xC80 => some .cycleh
  | 0xC81 => some .timeh
  | 0xC82 => some .instreth
  | 0x180 => some .satp
  | n => csrFamilyAt n

/-- The "exists when" column (10_state.md R25, R26). -/
def csrPresent (c : Config) : Csr → Bool
  | .mcycleh | .minstreth | .mhpmcounterh _ | .cycleh | .timeh | .instreth | .hpmcounterh _ => c.xlen == .rv32
  | .pmpcfg k => c.xlen == .rv32 || k.val % 2 == 0
  | .sstatus | .sedeleg | .sideleg | .sie | .stvec | .scounteren => c.hasS
  | .sscratch | .sepc | .scause | .stval | .sip => c.hasS
  | .ustatus | .uie | .utvec | .uscratch | .uepc | .ucause | .utval | .uip => c.hasN
  | .satp => c.hasSatp
  | .mvendorid | .marchid | .mimpid | .mhartid | .mstatus | .misa | .medeleg | .mideleg | .mie | .mtvec => true
  | .mcounteren | .mnmivec | .mscratch | .mepc | .mcause | .mtval | .mip | .mcycle | .minstret => true
  | .mhpmcounter _ | .mhpevent _ | .cycle | .time | .instret | .hpmcounter _ | .pmpaddr _ => true

/-- The "min priv" column (10_state.md R25, R27). -/
def csrMinPriv : Csr → Priv
  | .sstatus | .sedeleg | .sideleg | .sie | .stvec | .scounteren => .S
  | .sscratch | .sepc | .scause | .stval | .sip | .satp => .S
  | .ustatus | .uie | .utvec | .uscratch | .uepc | .ucause | .utval | .uip => .U
  | .cycle | .time | .instret | .hpmcounter _ | .cycleh | .timeh | .instreth | .hpmcounterh _ => .U
  | .mvendorid | .marchid | .mimpid | .mhartid | .mstatus | .misa | .medeleg | .mideleg | .mie | .mtvec => .M
  | .mcounteren | .mnmivec | .mscratch | .mepc | .mcause | .mtval | .mip | .mcycle | .minstret => .M
  | .mhpmcounter _ | .mcycleh | .minstreth | .mhpmcounterh _ | .mhpevent _ | .pmpcfg _ | .pmpaddr _ => .M

/-- The rows whose access is RO (10_state.md R25, R27). -/
def csrReadOnly : Csr → Bool
  | .mvendorid | .marchid | .mimpid | .mhartid | .scause | .stval => true
  | .cycle | .time | .instret | .hpmcounter _ | .cycleh | .timeh | .instreth | .hpmcounterh _ => true
  | .mstatus | .misa | .medeleg | .mideleg | .mie | .mtvec | .mcounteren | .mnmivec | .mscratch | .mepc => false
  | .mcause | .mtval | .mip | .mcycle | .minstret | .mhpmcounter _ | .mcycleh | .minstreth => false
  | .mhpmcounterh _ | .mhpevent _ | .sstatus | .sedeleg | .sideleg | .sie | .stvec | .scounteren => false
  | .sscratch | .sepc | .sip | .ustatus | .uie | .utvec | .uscratch | .uepc | .ucause | .utval | .uip => false
  | .pmpcfg _ | .pmpaddr _ | .satp => false

/-- The bit of `mcounteren` and `scounteren` that governs a user counter: 0 = CY, 1 = TM, 2 = IR, n = HPMn, the same bit for
the `h` half (11_state_supervisor_user_pmp.md R127). -/
def csrCounterBit : Csr → Option Nat
  | .cycle | .cycleh => some 0
  | .time | .timeh => some 1
  | .instret | .instreth => some 2
  | .hpmcounter k | .hpmcounterh k => some (k.val + 3)
  | .mvendorid | .marchid | .mimpid | .mhartid | .mstatus | .misa | .medeleg | .mideleg | .mie | .mtvec => none
  | .mcounteren | .mnmivec | .mscratch | .mepc | .mcause | .mtval | .mip | .mcycle | .minstret => none
  | .mhpmcounter _ | .mcycleh | .minstreth | .mhpmcounterh _ | .mhpevent _ => none
  | .sstatus | .sedeleg | .sideleg | .sie | .stvec | .scounteren | .sscratch | .sepc | .scause | .stval | .sip => none
  | .ustatus | .uie | .utvec | .uscratch | .uepc | .ucause | .utval | .uip => none
  | .pmpcfg _ | .pmpaddr _ | .satp => none

/-- The CSRs a write of which stands for the instruction's own retirement (10_state.md R75). -/
def csrIsInstret : Csr → Bool
  | .minstret | .minstreth => true
  | _ => false

end Sys2Proof.Machine
end

