-- ==== Sys2Proof/Machine/Memory.lean ====
section
/-! DEFINITION. Physical memory as a canonical list of cells: the access primitives of 20_memory.md R160 to R163. -/

namespace Sys2Proof.Machine

/-- What an address that memory does not list reads as: no value. The spec gives memory no reset contents and tells the model
to refuse a fetch where the platform has no memory (93_implementation_defined.md U9). Log entry 6. -/
def Memory.unlisted : Option Byte := none

/-- The canonical form: addresses strictly rising, and no entry equal to what an unlisted address reads as. -/
def Memory.wf : Memory → Bool
  | [] => true
  | [(_, b)] => some b != Memory.unlisted
  | (a, b) :: (a', b') :: rest => a < a' && some b != Memory.unlisted && Memory.wf ((a', b') :: rest)

/-- The byte at an address. -/
def Memory.readByte : Memory → Nat → Option Byte
  | [], _ => Memory.unlisted
  | (a', b) :: rest, a => if a = a' then some b else Memory.readByte rest a

/-- Memory with one byte written, in canonical form. -/
def Memory.writeByte : Memory → Nat → Byte → Memory
  | [], a, v => [(a, v)]
  | (a', b) :: rest, a, v =>
    if a < a' then (a, v) :: (a', b) :: rest
    else if a = a' then (a, v) :: rest
    else (a', b) :: Memory.writeByte rest a v

/-- `MemRead(addr, n)`: the `n` bytes from `addr` up, the lowest address first; none if memory lacks one (20_memory.md R161). -/
def memRead (m : Memory) (addr : Nat) : Nat → Option (List Byte)
  | 0 => some []
  | n + 1 =>
    match Memory.readByte m addr, memRead m (addr + 1) n with
    | some b, some bs => some (b :: bs)
    | _, _ => none

/-- `MemWrite(addr, n, v)` for the bytes of `v`, the lowest address first (20_memory.md R161). No instruction in scope stores;
the model's own placing of an instruction word uses it. -/
def memWrite (m : Memory) (addr : Nat) : List Byte → Memory
  | [] => m
  | b :: bs => memWrite (Memory.writeByte m addr b) (addr + 1) bs

/-- The number that bytes spell, least significant byte first. -/
def bytesNat : List Byte → Nat
  | [] => 0
  | b :: bs => b.toNat + 256 * bytesNat bs

/-- The value of data bytes, lowest address first, in the byte order of `DATA_LITTLE_ENDIAN` (20_memory.md R163). -/
def dataValue (c : Config) (bs : List Byte) : Nat :=
  if c.dataLittleEndian then bytesNat bs else bytesNat bs.reverse

end Sys2Proof.Machine
end

