-- ==== Sys2Proof/Machine/Pmp.lean ====
section
/-! DEFINITION. Physical memory protection: the configuration byte, the packing of the configuration CSRs, the write rules with
their locks (11_state_supervisor_user_pmp.md R130 to R134), and the check (20_memory.md R171 to R177). -/

namespace Sys2Proof.Machine

/-- L, bit 7 of a configuration byte (11_state_supervisor_user_pmp.md R131). -/
def pmpL (b : BitVec 8) : Bool := b.getLsbD 7
/-- A, bits 4:3 of a configuration byte: 0 OFF, 1 TOR, 2 NA4, 3 NAPOT. -/
def pmpA (b : BitVec 8) : BitVec 2 := b.extractLsb' 3 2
/-- X, bit 2 of a configuration byte. -/
def pmpX (b : BitVec 8) : Bool := b.getLsbD 2
/-- W, bit 1 of a configuration byte. -/
def pmpW (b : BitVec 8) : Bool := b.getLsbD 1
/-- R, bit 0 of a configuration byte. -/
def pmpR (b : BitVec 8) : Bool := b.getLsbD 0

/-- How many configuration bytes a `pmpcfg` CSR holds: 4 for XLEN = 32, 8 for XLEN = 64 (R130). -/
def pmpBytesPerCsr (c : Config) : Nat :=
  match c.xlen with
  | .rv32 => 4
  | .rv64 => 8

/-- Configuration byte `j` of the CSR 0x3A0 + `k` is that of entry `4k + j`; beyond entry 15 there is nothing (R130). -/
def pmpcfgByte (cfgs : Vector (BitVec 8) 16) (k : Fin 4) (j : Nat) : BitVec 8 :=
  if h : 4 * k.val + j < 16 then cfgs[4 * k.val + j] else 0#8

/-- The value of the CSR 0x3A0 + `k`: byte `j` at bits `8j+7:8j` (R130). -/
def pmpcfgRead (c : Config) (cfgs : Vector (BitVec 8) 16) (k : Fin 4) : Word :=
  (List.range (pmpBytesPerCsr c)).foldr (fun j acc => ((pmpcfgByte cfgs k j).setWidth 64 <<< (8 * j)) ||| acc) 0#64

/-- A write of byte `b` to `pmpcfg[i]`, tests on the state before the write (R134). -/
def pmpcfgWriteByte (c : Config) (old : BitVec 8) (i : Nat) (b : BitVec 8) : BitVec 8 :=
  if c.pmpCnt.val ≤ i then old
  else if pmpL old then old
  else b &&& 0x9F#8

/-- The configuration bytes after a write of `v` to the CSR 0x3A0 + `k`, each byte handled independently (R130, R134). -/
def pmpcfgWrite (c : Config) (cfgs : Vector (BitVec 8) 16) (k : Fin 4) (v : Word) : Vector (BitVec 8) 16 :=
  cfgs.mapFinIdx fun i old _ =>
    if 4 * k.val ≤ i && i < 4 * k.val + pmpBytesPerCsr c then
      pmpcfgWriteByte c old i (v.extractLsb' (8 * (i - 4 * k.val)) 8)
    else old

/-- Whether a write to `pmpaddr[i]` is ignored (R134): entry not implemented, locked, or the next entry locked and TOR. -/
def pmpaddrIgnored (c : Config) (cfgs : Vector (BitVec 8) 16) (i : Fin 16) : Bool :=
  c.pmpCnt.val ≤ i.val || pmpL cfgs[i] ||
    (if h : i.val + 1 < 16 then pmpL cfgs[i.val + 1] && pmpA cfgs[i.val + 1] == 1#2 else false)

/-- The address registers after a write of `v` to `pmpaddr[i]` (R132, R134). -/
def pmpaddrWrite (c : Config) (cfgs : Vector (BitVec 8) 16) (addrs : Vector Word 16) (i : Fin 16) (v : Word) :
    Vector Word 16 :=
  if pmpaddrIgnored c cfgs i then addrs else addrs.set i (pmpaddrLegal c v)

/-- The number of consecutive 1 bits of `n` from bit 0 up, at most `fuel` (20_memory.md R173). -/
def trailingOnes (n : Nat) : Nat → Nat
  | 0 => 0
  | fuel + 1 => if n % 2 = 1 then trailingOnes (n / 2) fuel + 1 else 0

/-- `W`, the stored width of a `pmpaddr` register (20_memory.md R173). -/
def pmpaddrWidth (c : Config) : Nat :=
  match c.xlen with
  | .rv32 => 32
  | .rv64 => 54

/-- The region of entry `i` as a half-open range of byte addresses, empty when its end is not above its start
(20_memory.md R173). -/
def pmpRegion (s : State) (i : Fin 16) : Nat × Nat :=
  let a := pmpA s.pmpcfg[i]
  let pa := s.pmpaddr[i].toNat
  if a = 0#2 then (0, 0)
  else if a = 1#2 then
    (if h : 0 < i.val then 4 * (s.pmpaddr[i.val - 1]'(by omega)).toNat else 0, 4 * pa)
  else if a = 2#2 then (4 * pa, 4 * pa + 4)
  else
    let t := trailingOnes pa (pmpaddrWidth s.cfg)
    let lo := 4 * (pa / 2 ^ (t + 1) * 2 ^ (t + 1))
    (lo, lo + 2 ^ (t + 3))

/-- Whether the region and the access `[addr, addr + n)` share at least one byte (20_memory.md R172). -/
def regionTouches (r : Nat × Nat) (addr n : Nat) : Bool := max r.1 addr < min r.2 (addr + n)

/-- Whether the access lies wholly inside the region (20_memory.md R172). -/
def regionCovers (r : Nat × Nat) (addr n : Nat) : Bool := r.1 ≤ addr && addr + n ≤ r.2

/-- The permission bit of an access type (20_memory.md R172). -/
def pmpPermits (b : BitVec 8) : AccessType → Bool
  | .load => pmpR b
  | .store => pmpW b
  | .fetch => pmpX b

/-- The sixteen entries in the order of the check, lowest number first (20_memory.md R174). -/
def pmpEntries : List (Fin 16) := [0, 1, 2, 3, 4, 5, 6, 7, 8, 9, 10, 11, 12, 13, 14, 15]

/-- The lowest-numbered implemented entry that matches any byte of the access (20_memory.md R174). -/
def pmpMatch (s : State) (addr n : Nat) : Option (Fin 16) :=
  pmpEntries.find? fun i => i.val < s.cfg.pmpCnt.val && regionTouches (pmpRegion s i) addr n

/-- `PMPCheck(addr, n, type, p)` (20_memory.md R172). -/
def pmpCheck (s : State) (addr n : Nat) (type : AccessType) (p : Priv) : Verdict :=
  match pmpMatch s addr n with
  | some i =>
    if !regionCovers (pmpRegion s i) addr n then .fail
    else if !pmpL s.pmpcfg[i] && p == .M then .ok
    else if pmpPermits s.pmpcfg[i] type then .ok
    else .fail
  | none =>
    if p == .M then .ok
    else if 1 ≤ s.cfg.pmpCnt.val then .fail
    else .ok

/-- The effective privilege of an access (20_memory.md R171): fetches at `priv`, loads and stores at MPP while MPRV is set. None
where MPP names no implemented mode: "the result is undefined" (10_state.md R49). -/
def effectivePriv (s : State) (type : AccessType) : Option Priv :=
  match type with
  | .fetch => some s.priv
  | .load | .store => if s.mstatus.getLsbD bitMPRV then modeOfCode s.cfg (getMpp s.mstatus) else some s.priv

/-- The exception of a failed access (20_memory.md R177). -/
def accessFaultOf : AccessType → Exception
  | .load => .loadAccessFault
  | .store => .storeAccessFault
  | .fetch => .instructionAccessFault

end Sys2Proof.Machine
end

