-- ==== Sys2Proof/Machine/Ops.lean ====
section
/-! DEFINITION. The named operations over registers, memory and traps: integer registers, checked memory access, sequential
completion, TAKING A TRAP as one shared operation (60_exceptions.md R320, R321, R330, R331), and RETURNING FROM ONE
(42_trap_return.md R280). -/

namespace Sys2Proof.Machine

/-- `x[i]`: register 0 always reads 0 (10_state.md R20). -/
def readX (s : State) (r : Reg) : Word :=
  if r = 0#5 then 0#64 else s.x[r.toNat]'(by have := r.isLt; omega)

/-- `x[i] <- v`: a write to register 0 is discarded (10_state.md R20). -/
def setX (s : State) (r : Reg) (v : Word) : State :=
  if r = 0#5 then s else { s with x := s.x.set r.toNat (truncXlen s.cfg v) (by have := r.isLt; omega) }

/-- `pc <- pc + 4` modulo 2^XLEN (10_state.md R21). -/
def advancePc (s : State) : State := { s with pc := truncXlen s.cfg (s.pc + 4#64) }

/-- One more instruction retired, modulo 2^64 (10_state.md R75). -/
def retire (s : State) : State := { s with minstret := s.minstret + 1#64 }

/-- A checked read of `n` bytes (20_memory.md R161, R162, R171, R177): the bytes, or the access exception, or no meaning where
the platform has no memory (93_implementation_defined.md U9) or where an MPRV access meets an MPP that names no mode (U3). -/
def checkedRead (s : State) (addr n : Nat) (type : AccessType) : Host.Outcome (List Byte) Exception Refusal :=
  match effectivePriv s type with
  | none => .refused .illegalPreviousMode
  | some p =>
    match pmpCheck s addr n type p with
    | .fail => .fault (accessFaultOf type)
    | .ok =>
      match memRead s.mem addr n with
      | some bs => .next bs
      | none => .refused .absentMemory

/-- A checked write of bytes, the lowest address first (20_memory.md R161, R171, R177). No instruction in scope calls it. -/
def checkedWrite (s : State) (addr : Nat) (bs : List Byte) : Host.Outcome State Exception Refusal :=
  match effectivePriv s .store with
  | none => .refused .illegalPreviousMode
  | some p =>
    match pmpCheck s addr bs.length .store p with
    | .fail => .fault .storeAccessFault
    | .ok =>
      match memRead s.mem addr bs.length with
      | some _ => .next { s with mem := memWrite s.mem addr bs }
      | none => .refused .absentMemory

/-- The code of an interrupt, its position in `mip`, `mie` and `mideleg` (10_state.md R61, R71). -/
def interruptCode : Interrupt → Nat
  | .userSoftware => 0
  | .supervisorSoftware => 1
  | .machineSoftware => 3
  | .userTimer => 4
  | .supervisorTimer => 5
  | .machineTimer => 7
  | .userExternal => 8
  | .supervisorExternal => 9
  | .machineExternal => 11

/-- The code of an exception (10_state.md R71; 60_exceptions.md R300). -/
def exceptionCode : Exception → Nat
  | .instructionMisaligned => 0
  | .instructionAccessFault => 1
  | .illegalInstruction => 2
  | .breakpoint => 3
  | .loadMisaligned => 4
  | .loadAccessFault => 5
  | .storeMisaligned => 6
  | .storeAccessFault => 7
  | .ecallFromU => 8
  | .ecallFromS => 9
  | .ecallFromM => 11
  | .instructionPageFault => 12
  | .loadPageFault => 13
  | .storePageFault => 15

/-- The value a trap writes to xcause: `{interrupt, code}`, the centre bits 0 (10_state.md R70; 60_exceptions.md R320). -/
def causeValue (c : Config) : TrapCause → Word
  | .interrupt i => (1#64 <<< (c.xlen.bits - 1)) ||| BitVec.ofNat 64 (interruptCode i)
  | .exception e => BitVec.ofNat 64 (exceptionCode e)

/-- The trap value of an exception (60_exceptions.md R302): the faulting address, the instruction bits for an illegal
instruction, 0 for the rest. -/
def exceptionValue (e : Exception) (faultingAddress : Word) (w : InstrWord) : Word :=
  match e with
  | .illegalInstruction => w.setWidth 64
  | .ecallFromU | .ecallFromS | .ecallFromM => 0#64
  | .instructionMisaligned | .instructionAccessFault | .breakpoint | .loadMisaligned | .loadAccessFault => faultingAddress
  | .storeMisaligned | .storeAccessFault | .instructionPageFault | .loadPageFault | .storePageFault => faultingAddress

/-- `E(code)`: the mode that handles an exception (60_exceptions.md R330). -/
def exceptionHandler (s : State) (e : Exception) : Priv :=
  if s.priv = .M then .M
  else if s.medeleg.getLsbD (exceptionCode e) = false then .M
  else if s.cfg.hasS then
    if s.priv = .U ∧ s.cfg.hasN = true ∧ s.sedeleg.getLsbD (exceptionCode e) = true then .U else .S
  else .U

/-- `T(i)`: the mode that handles an interrupt (60_exceptions.md R331). -/
def interruptHandler (s : State) (i : Interrupt) : Priv :=
  if s.mideleg.getLsbD (interruptCode i) = false then .M
  else if s.cfg.hasS then
    if s.cfg.hasN = true ∧ s.sideleg.getLsbD (interruptCode i) = true then .U else .S
  else .U

/-- The mode that handles a trap (60_exceptions.md R320). -/
def trapHandler (s : State) : TrapCause → Priv
  | .interrupt i => interruptHandler s i
  | .exception e => exceptionHandler s e

/-- `Vector(x, interrupt, code)` for the xtvec value of the handling mode (60_exceptions.md R321). -/
def trapVector (c : Config) (tvec : Word) (t : TrapCause) : Word :=
  let base := truncXlen c tvec &&& ~~~3#64
  match t with
  | .interrupt i => if tvec.extractLsb' 0 2 = 1#2 then truncXlen c (base + BitVec.ofNat 64 (4 * interruptCode i)) else base
  | .exception _ => base

/-- TAKING A TRAP, for exceptions and interrupts alike (60_exceptions.md R320): the cause, the exception pc and the trap value go
to the registers of the handling mode, its stack in `mstatus` is pushed, the mode changes, the pc goes to the vector. -/
def takeTrap (s : State) (t : TrapCause) (tval epc : Word) : State :=
  match trapHandler s t with
  | .M =>
    { s with
      mcause := causeValue s.cfg t, mepc := epcLegal s.cfg epc, mtval := truncXlen s.cfg tval
      mstatus := pushStack s.mstatus .M s.priv, priv := .M, pc := trapVector s.cfg s.mtvec t }
  | .S =>
    { s with
      scause := causeValue s.cfg t, sepc := epcLegal s.cfg epc, stval := truncXlen s.cfg tval
      mstatus := pushStack s.mstatus .S s.priv, priv := .S, pc := trapVector s.cfg s.stvec t }
  | .U =>
    { s with
      ucause := causeValue s.cfg t, uepc := epcLegal s.cfg epc, utval := truncXlen s.cfg tval
      mstatus := pushStack s.mstatus .U s.priv, priv := .U, pc := trapVector s.cfg s.utvec t }

/-- `raise` of an exception by the instruction at `pc` (60_exceptions.md R302, R320): the faulting address is given for the
exceptions that report one, the instruction word for an illegal instruction. -/
def raiseException (s : State) (e : Exception) (faultingAddress : Word) (w : InstrWord) : State :=
  takeTrap s (.exception e) (exceptionValue e faultingAddress w) s.pc

/-- `raise IllegalInstruction(w)` (60_exceptions.md R301): nothing else is written, and nothing retires. -/
def raiseIllegal (s : State) (w : InstrWord) : State := raiseException s .illegalInstruction s.pc w

/-- Taking an interrupt before the instruction at `pc` (60_exceptions.md R313): trap value 0. -/
def takeInterrupt (s : State) (i : Interrupt) : State := takeTrap s (.interrupt i) 0#64 s.pc

/-- RETURNING FROM A TRAP of mode `x` into mode `y` (42_trap_return.md R280): the stack is popped, the mode changes, the pc goes
to xepc, the instruction retires. -/
def returnFromTrap (s : State) (x y : Priv) (epc : Word) : State :=
  retire { s with mstatus := popStack s.cfg s.mstatus x, priv := y, pc := epc }

end Sys2Proof.Machine
end

