-- ==== Sys2Proof/Machine/CsrFile.lean ====
section
/-! DEFINITION. Reading and writing CSRs: `CSRRead`, `CSRRmwBase` and `CSRWrite` (10_state.md R29 to R31), every register by its
own rule (10_state.md R40 to R77; 11_state_supervisor_user_pmp.md R100 to R134). -/

namespace Sys2Proof.Machine

/-- `mvendorid` = `{JEDEC_BANK-1, JEDEC_MANUFACTURER_ID[6:0]}` (10_state.md R41). -/
def vendorId (c : Config) : Word :=
  truncXlen c ((BitVec.ofNat 64 (c.jedecBank - 1) <<< 7) ||| (c.jedecManufacturerId.setWidth 64 &&& 0x7F#64))

/-- `misa`: Base 1 or 2 in the top two bits, the Extensions in bits 25:0 (10_state.md R40). -/
def misaValue (c : Config) : Word :=
  match c.xlen with
  | .rv32 => (1#64 <<< 30) ||| c.misaExt.setWidth 64
  | .rv64 => (2#64 <<< 62) ||| c.misaExt.setWidth 64

/-- The machine-level pending bits, which only the platform drives: MEIP, MTIP, MSIP (10_state.md R64). -/
def machinePending (s : State) : Word :=
  maskIf s.env.meip 0x800#64 ||| maskIf s.env.mtip 0x80#64 ||| maskIf s.env.msip 0x8#64

/-- The interrupt controller's signals in bits 9 and 8, ignored where the level is not supported (10_state.md R65, R66). -/
def controllerPending (s : State) : Word :=
  maskIf (s.cfg.hasS && s.env.seip) 0x200#64 ||| maskIf (s.cfg.hasN && s.env.ueip) 0x100#64

/-- `CSRRead(0x344)`: software bits, machine inputs, and the controller's signals ORed in (10_state.md R64, R65). -/
def mipRead (s : State) : Word := s.mipSw ||| machinePending s ||| controllerPending s

/-- `CSRRmwBase(0x344)`: bits 9 and 8 are the software bits alone (10_state.md R31). -/
def mipBase (s : State) : Word := s.mipSw ||| machinePending s

/-- `svis`: the interrupts delegated from M-mode, visible in `sip` and `sie` (11_state_supervisor_user_pmp.md R105). -/
def supervisorVisible (s : State) : Word := s.mideleg &&& 0x333#64

/-- `uvis`: the interrupts delegated to U-mode, visible in `uip` and `uie` (11_state_supervisor_user_pmp.md R116). -/
def userVisible (s : State) : Word := (if s.cfg.hasS then s.mideleg &&& s.sideleg else s.mideleg) &&& 0x111#64

/-- `CSRRead(0x300)` (10_state.md R56). -/
def mstatusRead (s : State) : Word := s.mstatus ||| mstatusHardwired s.cfg

/-- The values of the cause table: `{interrupt, code}` of a row that is not reserved (10_state.md R71). -/
def causeListed (c : Config) (v : Word) : Bool :=
  let top := 1#64 <<< (c.xlen.bits - 1)
  let code := (v &&& ~~~top).toNat
  if v &&& top = 0#64 then code < 16 && (0xBBFF#64).getLsbD code
  else code < 12 && (0xBBB#64).getLsbD code

/-- What `mcause` or `ucause` reads: the stored value where it is one of the table, else a free value
(10_state.md R70; 93_implementation_defined.md U4; log entry 5). -/
def causeRead (s : State) (p : Priv) (stored : Word) : Word :=
  if causeListed s.cfg stored then stored else truncXlen s.cfg (Config.unlistedCause p stored s.tick)

/-- The XLEN-bit low part of a 64-bit counter (10_state.md R74, R75). -/
def counterLow (c : Config) (v : BitVec 64) : Word := truncXlen c v

/-- Bits 63:32 of a 64-bit counter (10_state.md R74, R75). -/
def counterHigh (v : BitVec 64) : Word := v >>> 32

/-- A write to the low part of a 64-bit counter (10_state.md R74, R75). -/
def counterWriteLow (c : Config) (old : BitVec 64) (v : Word) : BitVec 64 :=
  match c.xlen with
  | .rv32 => mergeBits old v 0xFFFFFFFF#64
  | .rv64 => v

/-- A write of `v[31:0]` to bits 63:32 of a 64-bit counter (10_state.md R74, R75). -/
def counterWriteHigh (old : BitVec 64) (v : Word) : BitVec 64 := mergeBits old (v <<< 32) 0xFFFFFFFF00000000#64

/-- `CSRRead(a)`: the XLEN-bit value a read returns; a read changes nothing (10_state.md R29). -/
def csrRead (s : State) : Csr → Word
  | .mvendorid => vendorId s.cfg
  | .marchid => 0x12#64
  | .mimpid => BitVec.ofNat 64 s.cfg.mimpid.val
  | .mhartid => 0#64
  | .mstatus => mstatusRead s
  | .misa => misaValue s.cfg
  | .medeleg => s.medeleg
  | .mideleg => s.mideleg
  | .mie => s.mie
  | .mtvec => s.mtvec
  | .mcounteren => s.mcounteren.setWidth 64
  | .mnmivec => s.mnmivec
  | .mscratch => s.mscratch
  | .mepc => s.mepc
  | .mcause => causeRead s .M s.mcause
  | .mtval => s.mtval
  | .mip => mipRead s
  | .mcycle => counterLow s.cfg s.mcycle
  | .minstret => counterLow s.cfg s.minstret
  | .mhpmcounter _ => 0#64
  | .mcycleh => counterHigh s.mcycle
  | .minstreth => counterHigh s.minstret
  | .mhpmcounterh _ => 0#64
  | .mhpevent _ => 0#64
  | .sstatus => mstatusRead s &&& sstatusBits
  | .sedeleg => s.sedeleg
  | .sideleg => s.sideleg
  | .sie => s.mie &&& supervisorVisible s
  | .stvec => s.stvec
  | .scounteren => s.scounteren.setWidth 64
  | .sscratch => s.sscratch
  | .sepc => s.sepc
  | .scause => s.scause
  | .stval => s.stval
  | .sip => mipRead s &&& supervisorVisible s
  | .ustatus => mstatusRead s &&& ustatusBits
  | .uie => s.mie &&& userVisible s
  | .utvec => s.utvec
  | .uscratch => s.uscratch
  | .uepc => s.uepc
  | .ucause => causeRead s .U s.ucause
  | .utval => s.utval
  | .uip => mipRead s &&& userVisible s
  | .cycle => counterLow s.cfg s.mcycle
  | .time => counterLow s.cfg s.env.time
  | .instret => counterLow s.cfg s.minstret
  | .hpmcounter _ => 0#64
  | .cycleh => counterHigh s.mcycle
  | .timeh => counterHigh s.env.time
  | .instreth => counterHigh s.minstret
  | .hpmcounterh _ => 0#64
  | .pmpcfg k => pmpcfgRead s.cfg s.pmpcfg k
  | .pmpaddr i => s.pmpaddr[i]
  | .satp => s.satp

/-- `CSRRmwBase(a)`: what a set or clear modifies; the read value, but for `mip`, `sip` and `uip`, whose bits 9 and 8 are the
software bits alone (10_state.md R31; 11_state_supervisor_user_pmp.md R106, R117). -/
def csrRmwBase (s : State) (r : Csr) : Word :=
  match r with
  | .mip => mipBase s
  | .sip => mipBase s &&& supervisorVisible s
  | .uip => mipBase s &&& userVisible s
  | r => csrRead s r

/-- `CSRWrite(0x300, v)` (10_state.md R56); a value that would leave MPP naming no implemented mode is refused (R49). -/
def mstatusWrite (s : State) (v : Word) : Host.Outcome State Fault Refusal :=
  if mppLegal s.cfg (getMpp v) then .next { s with mstatus := mergeBits s.mstatus v (mstatusMask s.cfg) }
  else .refused .illegalPreviousMode

/-- `CSRWrite(a, v)`: the effect of writing the XLEN-bit value `v` (10_state.md R30). The read-only registers are never written
(10_state.md R28), the constant and the unsupported ones ignore the write (R40, R76, R77). -/
def csrWrite (s : State) (r : Csr) (v : Word) : Host.Outcome State Fault Refusal :=
  match r with
  | .mstatus => mstatusWrite s v
  | .medeleg => .next { s with medeleg := mergeBits s.medeleg v (medelegMask s.cfg) }
  | .mideleg => .next { s with mideleg := mergeBits s.mideleg v (midelegMask s.cfg) }
  | .mie => .next { s with mie := mergeBits s.mie v (mieMask s.cfg) }
  | .mtvec => .next { s with mtvec := tvecLegal s.cfg v }
  | .mcounteren => .next { s with mcounteren := counterenLegal v }
  | .mnmivec => .next { s with mnmivec := truncXlen s.cfg v }
  | .mscratch => .next { s with mscratch := truncXlen s.cfg v }
  | .mepc => .next { s with mepc := epcLegal s.cfg v }
  | .mcause => .next { s with mcause := truncXlen s.cfg v }
  | .mtval => .next { s with mtval := truncXlen s.cfg v }
  | .mip => .next { s with mipSw := mergeBits s.mipSw v (mipSwMask s.cfg) }
  | .mcycle => .next { s with mcycle := counterWriteLow s.cfg s.mcycle v }
  | .minstret => .next { s with minstret := counterWriteLow s.cfg s.minstret v }
  | .mcycleh => .next { s with mcycle := counterWriteHigh s.mcycle v }
  | .minstreth => .next { s with minstret := counterWriteHigh s.minstret v }
  | .sstatus => .next { s with mstatus := mergeBits s.mstatus v (sstatusBits &&& mstatusMask s.cfg) }
  | .sedeleg => .next { s with sedeleg := mergeBits s.sedeleg v (sedelegMask s.cfg) }
  | .sideleg => .next { s with sideleg := mergeBits s.sideleg v (sidelegMask s.cfg) }
  | .sie => .next { s with mie := mergeBits s.mie v (supervisorVisible s) }
  | .stvec => .next { s with stvec := tvecLegal s.cfg v }
  | .scounteren => .next { s with scounteren := counterenLegal v }
  | .sscratch => .next { s with sscratch := truncXlen s.cfg v }
  | .sepc => .next { s with sepc := epcLegal s.cfg v }
  | .sip => .next { s with mipSw := mergeBits s.mipSw v (supervisorVisible s &&& 0x103#64) }
  | .ustatus => .next { s with mstatus := mergeBits s.mstatus v (ustatusBits &&& mstatusMask s.cfg) }
  | .uie => .next { s with mie := mergeBits s.mie v (userVisible s) }
  | .utvec => .next { s with utvec := tvecLegal s.cfg v }
  | .uscratch => .next { s with uscratch := truncXlen s.cfg v }
  | .uepc => .next { s with uepc := epcLegal s.cfg v }
  | .ucause => .next { s with ucause := truncXlen s.cfg v }
  | .utval => .next { s with utval := truncXlen s.cfg v }
  | .uip => .next { s with mipSw := mergeBits s.mipSw v (userVisible s &&& 0x1#64) }
  | .pmpcfg k => .next { s with pmpcfg := pmpcfgWrite s.cfg s.pmpcfg k v }
  | .pmpaddr i => .next { s with pmpaddr := pmpaddrWrite s.cfg s.pmpcfg s.pmpaddr i v }
  | .satp => .next { s with satp := truncXlen s.cfg v }
  | .misa | .mhpmcounter _ | .mhpmcounterh _ | .mhpevent _ => .next s
  | .mvendorid | .marchid | .mimpid | .mhartid | .scause | .stval => .next s
  | .cycle | .time | .instret | .hpmcounter _ | .cycleh | .timeh | .instreth | .hpmcounterh _ => .next s

end Sys2Proof.Machine
end

