-- ==== Sys2Proof/Machine/Operands.lean ====
section
/-! DEFINITION. The operand forms of the CSR instructions (40_csr_instructions.md R230): the register source, the immediate
source, the destination register, and the CSR operand with its access check (10_state.md R28;
11_state_supervisor_user_pmp.md R127). -/

namespace Sys2Proof.Machine

/-- The register source: "the initial value in register rs1" (R230). -/
def regSource (s : State) (rs1 : Reg) : Word := readX s rs1

/-- The immediate source: `zimm` zero-extended (30_encoding.md R202). -/
def zimmSource (zimm : Zimm) : Word := zimm.setWidth 64

/-- The counter-enable check (11_state_supervisor_user_pmp.md R127). -/
def counterAccessPermitted (s : State) (r : Csr) : Bool :=
  match csrCounterBit r with
  | none => true
  | some k =>
    match s.priv with
    | .M => true
    | .S => s.mcounteren.getLsbD k
    | .U => if s.cfg.hasS then s.mcounteren.getLsbD k && s.scounteren.getLsbD k else s.mcounteren.getLsbD k

/-- Whether every access to this CSR traps: `time` and `timeh` under `TIME_CSR_TRAPS` (10_state.md R28). -/
def timeTraps (s : State) (r : Csr) : Bool := s.cfg.timeCsrTraps && (r == .time || r == .timeh)

/-- `CSRAccessLegal` for a CSR of the address map, `w` saying whether the instruction will write (10_state.md R28). -/
def csrAccessLegal (s : State) (r : Csr) (w : Bool) : Bool :=
  csrPresent s.cfg r && privLe (csrMinPriv r) s.priv && !(w && csrReadOnly r) && counterAccessPermitted s r && !timeTraps s r

/-- The CSR operand: the CSR that the address names, where the access is legal; none where it raises (10_state.md R28). -/
def csrOperand (s : State) (a : CsrAddr) (w : Bool) : Option Csr :=
  match csrAt a with
  | some r => if csrAccessLegal s r w then some r else none
  | none => none

/-- The completion of a CSR instruction that wrote CSR `r` (or none): `pc + 4`, and one retirement unless the instruction itself
wrote `minstret` or `minstreth` (10_state.md R21, R75; 60_exceptions.md R360). -/
def completeCsr (s : State) (wrote : Option Csr) : State :=
  match wrote with
  | some r => if csrIsInstret r then advancePc s else advancePc (retire s)
  | none => advancePc (retire s)

/-- THE COMMON SEQUENCE of the six CSR instructions (40_csr_instructions.md R230): `w` the instruction word, `a` the CSR
address, `willWrite` and `new` (from the read-modify-write base) per instruction. `new` is computed before `x[rd]` is
written. -/
def csrSequence (s : State) (w : InstrWord) (a : CsrAddr) (rd : Reg) (willWrite : Bool) (new : Word → Word) :
    Host.Outcome State Fault Refusal :=
  match csrOperand s a willWrite with
  | none => .next (raiseIllegal s w)
  | some r =>
    if willWrite then
      match csrWrite (setX s rd (csrRead s r)) r (new (csrRmwBase s r)) with
      | .next t => .next (completeCsr t (some r))
      | .fault f => .fault f
      | .refused e => .refused e
    else .next (completeCsr (setX s rd (csrRead s r)) none)

end Sys2Proof.Machine
end

