-- ==== Sys2Proof/Machine/Counters.lean ====
section
/-! DEFINITION. The counter pseudo-instructions: `RDxxx rd` is `csrrs rd, <csr>, x0` (41_counter_pseudo.md R260), the common
sequence without a write. -/

namespace Sys2Proof.Machine

/-- RDCYCLE = `csrrs rd, cycle, x0` (R261). -/
def execRdcycle (rd : Reg) (s : State) : Host.Outcome State Fault Refusal :=
  csrSequence s (encode (.rdcycle rd)) 0xC00#12 rd false id

/-- RDCYCLEH = `csrrs rd, cycleh, x0` (R262). -/
def execRdcycleh (rd : Reg) (s : State) : Host.Outcome State Fault Refusal :=
  csrSequence s (encode (.rdcycleh rd)) 0xC80#12 rd false id

/-- RDTIME = `csrrs rd, time, x0` (R263). -/
def execRdtime (rd : Reg) (s : State) : Host.Outcome State Fault Refusal :=
  csrSequence s (encode (.rdtime rd)) 0xC01#12 rd false id

/-- RDTIMEH = `csrrs rd, timeh, x0` (R264). -/
def execRdtimeh (rd : Reg) (s : State) : Host.Outcome State Fault Refusal :=
  csrSequence s (encode (.rdtimeh rd)) 0xC81#12 rd false id

/-- RDINSTRET = `csrrs rd, instret, x0` (R265): the count before this instruction retires. -/
def execRdinstret (rd : Reg) (s : State) : Host.Outcome State Fault Refusal :=
  csrSequence s (encode (.rdinstret rd)) 0xC02#12 rd false id

/-- RDINSTRETH = `csrrs rd, instreth, x0` (R266). -/
def execRdinstreth (rd : Reg) (s : State) : Host.Outcome State Fault Refusal :=
  csrSequence s (encode (.rdinstreth rd)) 0xC82#12 rd false id

end Sys2Proof.Machine
end

