-- ==== Sys2Proof/Machine/CsrInstr.lean ====
section
/-! DEFINITION. The CSR access instructions (40_csr_instructions.md R230 to R237). -/

namespace Sys2Proof.Machine

/-- CSRRW: always writes, the new value is `x[rs1]` (R231). -/
def execCsrrw (rd : Reg) (csr : CsrAddr) (rs1 : Reg) (s : State) : Host.Outcome State Fault Refusal :=
  csrSequence s (encode (.csrrw rd csr rs1)) csr rd true fun _ => regSource s rs1

/-- CSRRS: writes unless the `rs1` FIELD is 0, the new value is `base | x[rs1]` (R232). -/
def execCsrrs (rd : Reg) (csr : CsrAddr) (rs1 : Reg) (s : State) : Host.Outcome State Fault Refusal :=
  csrSequence s (encode (.csrrs rd csr rs1)) csr rd (rs1 != 0#5) fun base => base ||| regSource s rs1

/-- CSRRC: writes unless the `rs1` FIELD is 0, the new value is `base & ~x[rs1]` (R233). -/
def execCsrrc (rd : Reg) (csr : CsrAddr) (rs1 : Reg) (s : State) : Host.Outcome State Fault Refusal :=
  csrSequence s (encode (.csrrc rd csr rs1)) csr rd (rs1 != 0#5) fun base => base &&& ~~~regSource s rs1

/-- CSRRWI: writes unless `zimm` is 0, or always under `CSRRWI_ZIMM0_WRITES`; the new value is `zimm` (R234). -/
def execCsrrwi (rd : Reg) (csr : CsrAddr) (zimm : Zimm) (s : State) : Host.Outcome State Fault Refusal :=
  csrSequence s (encode (.csrrwi rd csr zimm)) csr rd (zimm != 0#5 || s.cfg.csrrwiZimm0Writes) fun _ => zimmSource zimm

/-- CSRRSI: writes unless `zimm` is 0, the new value is `base | zimm` (R235). -/
def execCsrrsi (rd : Reg) (csr : CsrAddr) (zimm : Zimm) (s : State) : Host.Outcome State Fault Refusal :=
  csrSequence s (encode (.csrrsi rd csr zimm)) csr rd (zimm != 0#5) fun base => base ||| zimmSource zimm

/-- CSRRCI: writes unless `zimm` is 0, the new value is `base & ~zimm` (R236). -/
def execCsrrci (rd : Reg) (csr : CsrAddr) (zimm : Zimm) (s : State) : Host.Outcome State Fault Refusal :=
  csrSequence s (encode (.csrrci rd csr zimm)) csr rd (zimm != 0#5) fun base => base &&& ~~~zimmSource zimm

end Sys2Proof.Machine
end

