-- ==== Sys2Proof/Machine/TrapReturn.lean ====
section
/-! DEFINITION. The trap-return instructions (42_trap_return.md R280 to R283). -/

namespace Sys2Proof.Machine

/-- MRET: legal in M-mode; returns into the mode MPP names, refused where it names none (R281). -/
def execMret (s : State) : Host.Outcome State Fault Refusal :=
  if s.priv = .M then
    match modeOfCode s.cfg (getMpp s.mstatus) with
    | some y => .next (returnFromTrap s .M y s.mepc)
    | none => .refused .illegalPreviousMode
  else .next (raiseIllegal s (encode .mret))

/-- SRET: legal in S-mode and M-mode where S-mode is implemented; returns into the mode SPP names (R282). -/
def execSret (s : State) : Host.Outcome State Fault Refusal :=
  if s.cfg.hasS = true ∧ s.priv ≠ .U then
    .next (returnFromTrap s .S (if s.mstatus.getLsbD bitSPP then .S else .U) s.sepc)
  else .next (raiseIllegal s (encode .sret))

/-- URET: legal in every mode where user-level interrupts are implemented; returns into U-mode (R283). -/
def execUret (s : State) : Host.Outcome State Fault Refusal :=
  if s.cfg.hasN = true then .next (returnFromTrap s .U .U s.uepc)
  else .next (raiseIllegal s (encode .uret))

end Sys2Proof.Machine
end

