-- ==== Sys2Proof/Machine/Dispatch.lean ====
section
/-! DEFINITION. exec: one arm per constructor of Instr, each one direct call of its meaning. -/

namespace Sys2Proof.Machine

def exec (i : Instr) (s : State) : Host.Outcome State Fault Refusal :=
  match i with
  | .csrrw rd csr rs1 => Sys2Proof.Machine.execCsrrw rd csr rs1 s
  | .csrrs rd csr rs1 => Sys2Proof.Machine.execCsrrs rd csr rs1 s
  | .csrrc rd csr rs1 => Sys2Proof.Machine.execCsrrc rd csr rs1 s
  | .csrrwi rd csr zimm => Sys2Proof.Machine.execCsrrwi rd csr zimm s
  | .csrrsi rd csr zimm => Sys2Proof.Machine.execCsrrsi rd csr zimm s
  | .csrrci rd csr zimm => Sys2Proof.Machine.execCsrrci rd csr zimm s
  | .mret => Sys2Proof.Machine.execMret s
  | .sret => Sys2Proof.Machine.execSret s
  | .uret => Sys2Proof.Machine.execUret s
  | .rdcycle rd => Sys2Proof.Machine.execRdcycle rd s
  | .rdcycleh rd => Sys2Proof.Machine.execRdcycleh rd s
  | .rdtime rd => Sys2Proof.Machine.execRdtime rd s
  | .rdtimeh rd => Sys2Proof.Machine.execRdtimeh rd s
  | .rdinstret rd => Sys2Proof.Machine.execRdinstret rd s
  | .rdinstreth rd => Sys2Proof.Machine.execRdinstreth rd s

end Sys2Proof.Machine
end

