-- ==== Sys2Proof/Machine/Interrupts.lean ====
section
/-! DEFINITION. Which interrupt is taken, if any (60_exceptions.md R311 to R314). -/

namespace Sys2Proof.Machine

/-- Global enabling of the interrupts that mode `handler` handles (60_exceptions.md R312). -/
def globallyEnabled (s : State) (handler : Priv) : Bool :=
  match handler with
  | .M => s.priv != .M || getIE s.mstatus .M
  | .S => s.priv == .U || (s.priv == .S && getIE s.mstatus .S)
  | .U => s.priv == .U && getIE s.mstatus .U

/-- `takeable(i)`: pending, enabled in `mie`, and globally enabled (60_exceptions.md R311, R312). -/
def takeable (s : State) (i : Interrupt) : Bool :=
  s.mie.getLsbD (interruptCode i) && globallyEnabled s (interruptHandler s i) && (mipRead s).getLsbD (interruptCode i)

/-- The order within one handling mode: MEI, MSI, MTI, SEI, SSI, STI, UEI, USI, UTI (60_exceptions.md R314). -/
def interruptOrder : List Interrupt :=
  [.machineExternal, .machineSoftware, .machineTimer, .supervisorExternal, .supervisorSoftware, .supervisorTimer,
    .userExternal, .userSoftware, .userTimer]

/-- The first takeable interrupt of one handling mode, in the order of R314. -/
def pickFor (s : State) (handler : Priv) : Option Interrupt :=
  interruptOrder.find? fun i => takeable s i && interruptHandler s i == handler

/-- The interrupt a step takes: the highest handling mode first, M over S over U (60_exceptions.md R314). -/
def pickInterrupt (s : State) : Option Interrupt :=
  match pickFor s .M with
  | some i => some i
  | none =>
    match pickFor s .S with
    | some i => some i
    | none => pickFor s .U

end Sys2Proof.Machine
end

