-- ==== Sys2Proof/Machine/Hart.lean ====
section
/-! DEFINITION. One step of the hart in the order of 60_exceptions.md R360: sample the inputs, take an interrupt or fetch, decode,
execute; then the platform drives the inputs of the step after. -/

namespace Sys2Proof.Machine

/-- The start of a step: the inputs `env` are the ones sampled, and `mcycle64` advances by the drawn cycles (10_state.md R74). -/
def sampleInputs (s : State) : State := { s with mcycle := s.mcycle + s.env.cycles }

/-- A draw of the platform made to obey the laws the spec states for it: `ext.time` never decreases
(11_state_supervisor_user_pmp.md R125), `ext.nmi` is never asserted (60_exceptions.md R340). -/
def lawfulInputs (before drawn : Inputs) : Inputs :=
  { drawn with nmi := false, time := if drawn.time < before.time then before.time else drawn.time }

/-- The end of a step: the next inputs come from the schedule, or from the free value when it is empty ("a fresh draw at every
step", 10_state.md R23; the inputs change only between steps, 70_reset_and_hazards.md R381). -/
def endStep (s : State) : State :=
  match s.scheduled with
  | next :: rest => { s with env := lawfulInputs s.env next, scheduled := rest, tick := s.tick + 1 }
  | [] => { s with env := lawfulInputs s.env (Config.drawInputs s.tick), tick := s.tick + 1 }

/-- The fetch of a step (20_memory.md R162): the bytes of the word at `pc`, the access exception, or no meaning. -/
def fetchBytes (s : State) : Host.Outcome (List Byte) Exception Refusal := checkedRead s s.pc.toNat 4 .fetch

/-- Why bytes that decode to nothing stop the model (30_encoding.md R207). -/
def refusalOf : DecodeError → Refusal
  | .truncated => .absentMemory
  | .parcel16 => .parcel16
  | .notInTable => .wordNotInTable

/-- Steps 3 to 6 of R360: fetch, decode, execute; what the step leaves before the inputs change. -/
def fetchAndExec (s : State) : Host.Outcome State Fault Refusal :=
  match fetchBytes s with
  | .fault e => .next (raiseException s e s.pc 0#32)
  | .refused r => .refused r
  | .next bs =>
    match decodeBytes bs with
    | .ok (i, _) => exec i s
    | .error e => .refused (refusalOf e)

/-- Steps 2 to 6 of R360 on a state whose inputs are sampled. -/
def interruptOrExec (s : State) : Host.Outcome State Fault Refusal :=
  match pickInterrupt s with
  | some i => .next (takeInterrupt s i)
  | none => fetchAndExec s

/-- One step of the hart (60_exceptions.md R360). -/
def hartStep (s : State) : Host.Outcome State Fault Refusal :=
  if s.env.nmi then .refused .nonMaskableInterrupt
  else
    match interruptOrExec (sampleInputs s) with
    | .next t => .next (endStep t)
    | .fault f => .fault f
    | .refused r => .refused r

/-- A table row's instruction word stored at `pc`, where the next step fetches. -/
def placeWord (s : State) (w : InstrWord) : State := { s with mem := memWrite s.mem s.pc.toNat (wordBytes w) }

end Sys2Proof.Machine
end

