-- ==== Sys2Proof/Machine/Step.lean ====
section
/-! DEFINITION. step, and the host's way to place an instruction where step fetches it. -/

namespace Sys2Proof.Machine

/-- One step of the hart (60_exceptions.md R360). -/
def step (s : State) : Host.Outcome State Fault Refusal := hartStep s

/-- The state with the instruction of a table row stored where the next step fetches (log entry 7). -/
def State.withFetchWord (s : State) (nbits w : Nat) : State := placeWord s (tableWord nbits w)

end Sys2Proof.Machine
end

