-- ==== Sys2Proof/Safety.lean ====
section
/-! DEFINITION. The terms in which claims speak of good states: the well-formed state (every register holds a legal value, memory
its canonical form), the states a reset may leave, and what a CSR access depends on. No step reads anything of this file. -/

namespace Sys2Proof.Machine

/-- The value fits in XLEN bits. -/
def Fits (c : Config) (v : Word) : Prop := truncXlen c v = v

/-- No bit outside the mask is set. -/
def Within (v mask : Word) : Prop := v &&& ~~~mask = 0#64

/-- Every register holds a legal value of its own rule. The registers of absent modes are included: nothing writes them. -/
structure Wf (s : State) : Prop where
  /-- The parameters meet 00_scope.md R6 and R7. -/
  cfg_legal : s.cfg.Legal
  /-- Memory is in canonical form. -/
  mem_canonical : Memory.wf s.mem = true
  /-- The integer registers are XLEN bits wide (10_state.md R20). -/
  x_fits : ∀ r : Fin 32, Fits s.cfg s.x[r]
  /-- The hard-wired register's cell stays 0 (10_state.md R20). -/
  x_zero : s.x[0] = 0#64
  /-- The pc is an XLEN-bit value aligned as an exception pc is (10_state.md R21). -/
  pc_aligned : epcLegal s.cfg s.pc = s.pc
  /-- The mode is implemented (10_state.md R22). -/
  priv_implemented : hasMode s.cfg s.priv = true
  /-- Only stored bits of `mstatus` are set (10_state.md R56). -/
  mstatus_within : Within s.mstatus (mstatusMask s.cfg)
  /-- MPP names an implemented mode (10_state.md R49). -/
  mpp_implemented : mppLegal s.cfg (getMpp s.mstatus) = true
  /-- Only stored bits of the delegation, enable and pending registers are set (10_state.md R59, R60, R62, R63). -/
  medeleg_within : Within s.medeleg (medelegMask s.cfg)
  mideleg_within : Within s.mideleg (midelegMask s.cfg)
  sedeleg_within : Within s.sedeleg (sedelegMask s.cfg)
  sideleg_within : Within s.sideleg (sidelegMask s.cfg)
  mie_within : Within s.mie (mieMask s.cfg)
  mip_within : Within s.mipSw (mipSwMask s.cfg)
  /-- Trap vectors have MODE bit 1 clear (10_state.md R58). -/
  mtvec_legal : tvecLegal s.cfg s.mtvec = s.mtvec
  stvec_legal : tvecLegal s.cfg s.stvec = s.stvec
  utvec_legal : tvecLegal s.cfg s.utvec = s.utvec
  /-- Exception pcs have their low bits clear (10_state.md R69). -/
  mepc_legal : epcLegal s.cfg s.mepc = s.mepc
  sepc_legal : epcLegal s.cfg s.sepc = s.sepc
  uepc_legal : epcLegal s.cfg s.uepc = s.uepc
  /-- The registers stored as written are XLEN bits wide. -/
  plain_fits : Fits s.cfg s.mnmivec ∧ Fits s.cfg s.mscratch ∧ Fits s.cfg s.mcause ∧ Fits s.cfg s.mtval ∧
    Fits s.cfg s.sscratch ∧ Fits s.cfg s.stval ∧ Fits s.cfg s.satp ∧
    Fits s.cfg s.uscratch ∧ Fits s.cfg s.ucause ∧ Fits s.cfg s.utval
  /-- `scause`, which software cannot write, holds a value of the cause table (11_state_supervisor_user_pmp.md R111). -/
  scause_listed : causeListed s.cfg s.scause = true
  /-- Only CY, TM and IR are stored (10_state.md R73; 11_state_supervisor_user_pmp.md R113). -/
  counteren_legal : s.mcounteren &&& 7#32 = s.mcounteren ∧ s.scounteren &&& 7#32 = s.scounteren
  /-- Bits 6:5 of a PMP configuration byte read 0 (11_state_supervisor_user_pmp.md R131). -/
  pmpcfg_legal : ∀ i : Fin 16, s.pmpcfg[i] &&& 0x9F#8 = s.pmpcfg[i]
  /-- A PMP address register holds its stored bits only (11_state_supervisor_user_pmp.md R132). -/
  pmpaddr_legal : ∀ i : Fin 16, pmpaddrLegal s.cfg s.pmpaddr[i] = s.pmpaddr[i]
  /-- The entries that are not implemented are 0 (11_state_supervisor_user_pmp.md R133). -/
  pmp_absent : ∀ i : Fin 16, s.cfg.pmpCnt.val ≤ i.val → s.pmpcfg[i] = 0#8 ∧ s.pmpaddr[i] = 0#64
  /-- `ext.nmi` is never asserted (60_exceptions.md R340). -/
  nmi_quiet : s.env.nmi = false

/-- The states a reset may leave (70_reset_and_hazards.md R371, R372): legal values everywhere, and the fixed rows of the table:
`pc` = `PC_INIT`, M-mode, MIE = 0, MPRV = 0, every implemented PMP entry unlocked and OFF.

DESIGN CHOICE, log entry 20: R372 calls `mcause`, `ucause` and `scause` "unspecified, legal" and does not say whether a WLRL
cause outside the cause table is legal. Here `mcause` and `ucause` may hold any XLEN-bit value, as after a software write, and one
outside the table reads as the free value of log entry 5; `scause`, which no software write reaches, holds a value of the table. -/
structure IsReset (s : State) : Prop where
  wf : Wf s
  pc_init : s.pc = s.cfg.pcInit
  machine_mode : s.priv = .M
  mie_clear : s.mstatus.getLsbD bitMIE = false
  mprv_clear : s.mstatus.getLsbD bitMPRV = false
  pmp_unlocked : ∀ i : Fin 16, pmpL s.pmpcfg[i] = false
  pmp_off : ∀ i : Fin 16, pmpA s.pmpcfg[i] = 0#2

/-- Where `mstatus` stores a bit under the parameters: the table of 10_state.md R56. -/
abbrev MstatusStores (c : Config) (n : Nat) : Prop :=
  n = 3 ∨ n = 7 ∨ n = 11 ∨ n = 12 ∨ (c.hasU = true ∧ n = 17) ∨
    (c.hasS = true ∧ (n = 1 ∨ n = 5 ∨ n = 8 ∨ n = 18 ∨ n = 19)) ∨ (c.hasN = true ∧ (n = 0 ∨ n = 4))

/-- Bit `n` is visible in `sie` and `sip`: a supervisor or user interrupt that `mideleg` delegates, bit `n` of `svis`
(11_state_supervisor_user_pmp.md R105). -/
abbrev InSupervisorView (s : State) (n : Nat) : Prop :=
  (n = 0 ∨ n = 1 ∨ n = 4 ∨ n = 5 ∨ n = 8 ∨ n = 9) ∧ s.mideleg.getLsbD n = true

/-- Bit `n` is visible in `uie` and `uip`: a user interrupt that is delegated to U-mode, bit `n` of `uvis`
(11_state_supervisor_user_pmp.md R116). -/
abbrev InUserView (s : State) (n : Nat) : Prop :=
  (n = 0 ∨ n = 4 ∨ n = 8) ∧ s.mideleg.getLsbD n = true ∧ (s.cfg.hasS = true → s.sideleg.getLsbD n = true)

/-- The pending bit that a set or clear modifies: for SEIP and UEIP the software bit alone, for every other bit what `mip` reads
(10_state.md R31). -/
def pendingToModify (s : State) (n : Nat) : Bool :=
  if n = 8 ∨ n = 9 then s.mipSw.getLsbD n else (csrRead s .mip).getLsbD n

/-- `base` is what a set or clear of a CSR modifies (10_state.md R31; 11_state_supervisor_user_pmp.md R106, R117): the value read,
but for `mip`, `sip` and `uip`. Nothing is said of bits 11, 7 and 3 of `mip`, which R31 calls immaterial (log entry 13). -/
def IsRmwBase (s : State) (r : Csr) (base : Word) : Prop :=
  (r ≠ .mip → r ≠ .sip → r ≠ .uip → base = csrRead s r) ∧
  (r = .mip → ∀ n, n ≠ 11 → n ≠ 7 → n ≠ 3 → base.getLsbD n = pendingToModify s n) ∧
  (r = .sip → ∀ n, base.getLsbD n = if InSupervisorView s n then pendingToModify s n else false) ∧
  (r = .uip → ∀ n, base.getLsbD n = if InUserView s n then pendingToModify s n else false)

/-- The pieces of stored state behind the CSRs: which one a write reaches and which ones a read looks at. -/
inductive Cell where
  | mstatus
  | mtvec
  | medeleg
  | mideleg
  | mie
  | mipSw
  | mnmivec
  | mscratch
  | mepc
  | mcause
  | mtval
  | mcounteren
  | mcycle
  | minstret
  | sedeleg
  | sideleg
  | stvec
  | sscratch
  | sepc
  | scause
  | stval
  | scounteren
  | satp
  | utvec
  | uscratch
  | uepc
  | ucause
  | utval
  | pmpcfg
  | pmpaddr
  deriving DecidableEq, Repr

/-- The cell that a CSR write may change; none for the constant, the unsupported and the read-only CSRs (10_state.md R30). -/
def cellWritten : Csr → Option Cell
  | .mstatus | .sstatus | .ustatus => some .mstatus
  | .medeleg => some .medeleg
  | .mideleg => some .mideleg
  | .mie | .sie | .uie => some .mie
  | .mip | .sip | .uip => some .mipSw
  | .mtvec => some .mtvec
  | .mcounteren => some .mcounteren
  | .mnmivec => some .mnmivec
  | .mscratch => some .mscratch
  | .mepc => some .mepc
  | .mcause => some .mcause
  | .mtval => some .mtval
  | .mcycle | .mcycleh => some .mcycle
  | .minstret | .minstreth => some .minstret
  | .sedeleg => some .sedeleg
  | .sideleg => some .sideleg
  | .stvec => some .stvec
  | .scounteren => some .scounteren
  | .sscratch => some .sscratch
  | .sepc => some .sepc
  | .utvec => some .utvec
  | .uscratch => some .uscratch
  | .uepc => some .uepc
  | .ucause => some .ucause
  | .utval => some .utval
  | .pmpcfg _ => some .pmpcfg
  | .pmpaddr _ => some .pmpaddr
  | .satp => some .satp
  | .misa | .mvendorid | .marchid | .mimpid | .mhartid | .scause | .stval => none
  | .mhpmcounter _ | .mhpmcounterh _ | .mhpevent _ => none
  | .cycle | .time | .instret | .hpmcounter _ | .cycleh | .timeh | .instreth | .hpmcounterh _ => none

/-- The cells that a CSR read looks at (10_state.md R29). -/
def cellsRead : Csr → List Cell
  | .mstatus | .sstatus | .ustatus => [.mstatus]
  | .medeleg => [.medeleg]
  | .mideleg => [.mideleg]
  | .mie => [.mie]
  | .sie => [.mie, .mideleg]
  | .uie => [.mie, .mideleg, .sideleg]
  | .mip => [.mipSw]
  | .sip => [.mipSw, .mideleg]
  | .uip => [.mipSw, .mideleg, .sideleg]
  | .mtvec => [.mtvec]
  | .mcounteren => [.mcounteren]
  | .mnmivec => [.mnmivec]
  | .mscratch => [.mscratch]
  | .mepc => [.mepc]
  | .mcause => [.mcause]
  | .mtval => [.mtval]
  | .mcycle | .mcycleh | .cycle | .cycleh => [.mcycle]
  | .minstret | .minstreth | .instret | .instreth => [.minstret]
  | .sedeleg => [.sedeleg]
  | .sideleg => [.sideleg]
  | .stvec => [.stvec]
  | .scounteren => [.scounteren]
  | .sscratch => [.sscratch]
  | .sepc => [.sepc]
  | .scause => [.scause]
  | .stval => [.stval]
  | .utvec => [.utvec]
  | .uscratch => [.uscratch]
  | .uepc => [.uepc]
  | .ucause => [.ucause]
  | .utval => [.utval]
  | .pmpcfg _ => [.pmpcfg]
  | .pmpaddr _ => [.pmpaddr]
  | .satp => [.satp]
  | .misa | .mvendorid | .marchid | .mimpid | .mhartid => []
  | .mhpmcounter _ | .mhpmcounterh _ | .mhpevent _ | .hpmcounter _ | .hpmcounterh _ => []
  | .time | .timeh => []

/-- The stored value of a cell, each register of it widened to 64 bits. -/
def cellValue (s : State) : Cell → List Word
  | .mstatus => [s.mstatus]
  | .mtvec => [s.mtvec]
  | .medeleg => [s.medeleg]
  | .mideleg => [s.mideleg]
  | .mie => [s.mie]
  | .mipSw => [s.mipSw]
  | .mnmivec => [s.mnmivec]
  | .mscratch => [s.mscratch]
  | .mepc => [s.mepc]
  | .mcause => [s.mcause]
  | .mtval => [s.mtval]
  | .mcounteren => [s.mcounteren.setWidth 64]
  | .mcycle => [s.mcycle]
  | .minstret => [s.minstret]
  | .sedeleg => [s.sedeleg]
  | .sideleg => [s.sideleg]
  | .stvec => [s.stvec]
  | .sscratch => [s.sscratch]
  | .sepc => [s.sepc]
  | .scause => [s.scause]
  | .stval => [s.stval]
  | .scounteren => [s.scounteren.setWidth 64]
  | .satp => [s.satp]
  | .utvec => [s.utvec]
  | .uscratch => [s.uscratch]
  | .uepc => [s.uepc]
  | .ucause => [s.ucause]
  | .utval => [s.utval]
  | .pmpcfg => s.pmpcfg.toList.map (·.setWidth 64)
  | .pmpaddr => s.pmpaddr.toList

/-- The part of the state that only M-mode code can change: the registers whose lowest mode is M and which no trap writes
(10_state.md R25; 60_exceptions.md R320). -/
def machineControl (s : State) : List Word × List (BitVec 8) × List Word × BitVec 32 :=
  ([s.mtvec, s.medeleg, s.mideleg, s.mnmivec, s.mscratch], s.pmpcfg.toList, s.pmpaddr.toList, s.mcounteren)

/-- The CSR address an instruction accesses and whether it will write there, decided from the instruction's fields alone
(40_csr_instructions.md R230 to R237; 41_counter_pseudo.md R260). -/
def csrUse (c : Config) : Instr → Option (CsrAddr × Bool)
  | .csrrw _ a _ => some (a, true)
  | .csrrs _ a rs1 | .csrrc _ a rs1 => some (a, rs1 != 0#5)
  | .csrrwi _ a z => some (a, z != 0#5 || c.csrrwiZimm0Writes)
  | .csrrsi _ a z | .csrrci _ a z => some (a, z != 0#5)
  | .rdcycle _ => some (0xC00#12, false)
  | .rdcycleh _ => some (0xC80#12, false)
  | .rdtime _ => some (0xC01#12, false)
  | .rdtimeh _ => some (0xC81#12, false)
  | .rdinstret _ => some (0xC02#12, false)
  | .rdinstreth _ => some (0xC82#12, false)
  | .mret | .sret | .uret => none

/-- The destination register of a CSR instruction. -/
def destination : Instr → Option Reg
  | .csrrw rd _ _ | .csrrs rd _ _ | .csrrc rd _ _ | .csrrwi rd _ _ | .csrrsi rd _ _ | .csrrci rd _ _ => some rd
  | .rdcycle rd | .rdcycleh rd | .rdtime rd | .rdtimeh rd | .rdinstret rd | .rdinstreth rd => some rd
  | .mret | .sret | .uret => none

/-- The five conditions of a legal CSR access, as 10_state.md R28 lists them, for an address and a `will_write`. -/
structure AccessLegal (s : State) (a : CsrAddr) (w : Bool) (r : Csr) : Prop where
  /-- "non-existing CSR" -/
  found : csrAt a = some r
  exists_here : csrPresent s.cfg r = true
  /-- "privileged CSR" -/
  privileged : privLe (csrMinPriv r) s.priv = true
  /-- "write a read-only CSR" -/
  writable : ¬(w = true ∧ csrReadOnly r = true)
  /-- 11_state_supervisor_user_pmp.md R127 -/
  counter : ∀ k, csrCounterBit r = some k →
    s.priv = .M ∨ (s.priv = .S ∧ s.mcounteren.getLsbD k = true) ∨
      (s.priv = .U ∧ s.mcounteren.getLsbD k = true ∧ (s.cfg.hasS = true → s.scounteren.getLsbD k = true))
  /-- 11_state_supervisor_user_pmp.md R125 -/
  time : ¬(s.cfg.timeCsrTraps = true ∧ (a = 0xC01#12 ∨ a = 0xC81#12))

/-- The counter-enable conditions of 11_state_supervisor_user_pmp.md R127 for counter number `k`. -/
def CounterEnabled (s : State) (k : Nat) : Prop :=
  s.priv = .M ∨ (s.priv = .S ∧ s.mcounteren.getLsbD k = true) ∨
    (s.priv = .U ∧ s.mcounteren.getLsbD k = true ∧ (s.cfg.hasS = true → s.scounteren.getLsbD k = true))

/-- Memory holds the four bytes of a word at an address, the lowest byte first (20_memory.md R162). -/
def HoldsWord (m : Memory) (addr : Nat) (w : InstrWord) : Prop :=
  ∀ k, k < 4 → Memory.readByte m (addr + k) = (wordBytes w)[k]?

/-- The state is ready to run the instruction word `w`: nothing stops the fetch (60_exceptions.md R360 steps 1 to 3). -/
structure Ready (s : State) (w : InstrWord) : Prop where
  nmi_quiet : s.env.nmi = false
  no_interrupt : pickInterrupt s = none
  fetch_permitted : pmpCheck s s.pc.toNat 4 .fetch s.priv = .ok
  word_present : HoldsWord s.mem s.pc.toNat w

/-- The word matches a row of 30_encoding.md R204 or R206. -/
def MatchesTable (w : InstrWord) : Prop :=
  w &&& 0x707F#32 = 0x1073#32 ∨ w &&& 0x707F#32 = 0x2073#32 ∨ w &&& 0x707F#32 = 0x3073#32 ∨
    w &&& 0x707F#32 = 0x5073#32 ∨ w &&& 0x707F#32 = 0x6073#32 ∨ w &&& 0x707F#32 = 0x7073#32 ∨
    w = 0x30200073#32 ∨ w = 0x10200073#32 ∨ w = 0x00200073#32

/-- The instruction writes the CSR at address `a` when it is legal, and `new` is the value it writes there
(40_csr_instructions.md R231 to R236). -/
def csrWriteOf (s : State) : Instr → Option (CsrAddr × (Word → Word))
  | .csrrw _ a rs1 => some (a, fun _ => readX s rs1)
  | .csrrs _ a rs1 => if rs1 = 0#5 then none else some (a, fun base => base ||| readX s rs1)
  | .csrrc _ a rs1 => if rs1 = 0#5 then none else some (a, fun base => base &&& ~~~readX s rs1)
  | .csrrwi _ a z => if z = 0#5 ∧ s.cfg.csrrwiZimm0Writes = false then none else some (a, fun _ => z.setWidth 64)
  | .csrrsi _ a z => if z = 0#5 then none else some (a, fun base => base ||| z.setWidth 64)
  | .csrrci _ a z => if z = 0#5 then none else some (a, fun base => base &&& ~~~z.setWidth 64)
  | .mret | .sret | .uret => none
  | .rdcycle _ | .rdcycleh _ | .rdtime _ | .rdtimeh _ | .rdinstret _ | .rdinstreth _ => none

end Sys2Proof.Machine
end

