-- ==== Sys2Proof/Certificates/Slice0/Obligations.lean ====
section
/-! DEFINITION. The statements for the provers. Each docstring names the rules of spec/ it formalises. -/

open Sys2Proof Sys2Proof.Machine

/-! ## Encoding -/

/-- Decode and encode agree: every well-formed instruction, with every operand at every value its field admits, is read back
from its word (R200 to R206). -/
def Obligations.EncodedInstructionsDecodeBack : Prop :=
  ∀ i : Instr, i.wellFormed = true → decodeWord (encode i) = .ok i

/-- Every word that decodes is the word of a well-formed instruction: no bit of an accepted word is ignored (R200 to R206). -/
def Obligations.DecodedWordsEncodeBack : Prop :=
  ∀ (w : InstrWord) (i : Instr), decodeWord w = .ok i → i.wellFormed = true ∧ encode i = w

/-- A word is an instruction exactly when `w & mask == match` of its row (R204, R206); among the CSRRS words the six counter
words of R205 are read as their RDxxx names (the model's reading, log entry 2). -/
def Obligations.WordsMatchTheirTableRows : Prop :=
  ∀ w : InstrWord,
    ((∃ rd a f, decodeWord w = .ok (.csrrw rd a f)) ↔ w &&& 0x707F#32 = 0x1073#32) ∧
    ((∃ rd a f, decodeWord w = .ok (.csrrs rd a f)) ↔
      w &&& 0x707F#32 = 0x2073#32 ∧ w &&& 0xFFFFF07F#32 ≠ 0xC0002073#32 ∧ w &&& 0xFFFFF07F#32 ≠ 0xC8002073#32 ∧
      w &&& 0xFFFFF07F#32 ≠ 0xC0102073#32 ∧ w &&& 0xFFFFF07F#32 ≠ 0xC8102073#32 ∧
      w &&& 0xFFFFF07F#32 ≠ 0xC0202073#32 ∧ w &&& 0xFFFFF07F#32 ≠ 0xC8202073#32) ∧
    ((∃ rd a f, decodeWord w = .ok (.csrrc rd a f)) ↔ w &&& 0x707F#32 = 0x3073#32) ∧
    ((∃ rd a f, decodeWord w = .ok (.csrrwi rd a f)) ↔ w &&& 0x707F#32 = 0x5073#32) ∧
    ((∃ rd a f, decodeWord w = .ok (.csrrsi rd a f)) ↔ w &&& 0x707F#32 = 0x6073#32) ∧
    ((∃ rd a f, decodeWord w = .ok (.csrrci rd a f)) ↔ w &&& 0x707F#32 = 0x7073#32) ∧
    (decodeWord w = .ok .mret ↔ w = 0x30200073#32) ∧
    (decodeWord w = .ok .sret ↔ w = 0x10200073#32) ∧
    (decodeWord w = .ok .uret ↔ w = 0x00200073#32) ∧
    ((∃ rd, decodeWord w = .ok (.rdcycle rd)) ↔ w &&& 0xFFFFF07F#32 = 0xC0002073#32) ∧
    ((∃ rd, decodeWord w = .ok (.rdcycleh rd)) ↔ w &&& 0xFFFFF07F#32 = 0xC8002073#32) ∧
    ((∃ rd, decodeWord w = .ok (.rdtime rd)) ↔ w &&& 0xFFFFF07F#32 = 0xC0102073#32) ∧
    ((∃ rd, decodeWord w = .ok (.rdtimeh rd)) ↔ w &&& 0xFFFFF07F#32 = 0xC8102073#32) ∧
    ((∃ rd, decodeWord w = .ok (.rdinstret rd)) ↔ w &&& 0xFFFFF07F#32 = 0xC0202073#32) ∧
    ((∃ rd, decodeWord w = .ok (.rdinstreth rd)) ↔ w &&& 0xFFFFF07F#32 = 0xC8202073#32)

/-- Six words that the spec writes out decode to the instructions they stand for (R231, R232, R233, R234, R205, R206), and the word
0x00000073 (ECALL), which is of no row, is refused (R207). That the RDCYCLE word is read as RDCYCLE is the model's choice (log
entry 2): R205 says a decoder reads it as CSRRS. -/
def Obligations.ExampleWordsDecode : Prop :=
  decodeWord 0x340312F3#32 = .ok (.csrrw 5#5 0x340#12 6#5) ∧
  decodeWord 0x3043A073#32 = .ok (.csrrs 0#5 0x304#12 7#5) ∧
  decodeWord 0x30063073#32 = .ok (.csrrc 0#5 0x300#12 12#5) ∧
  decodeWord 0x340AD073#32 = .ok (.csrrwi 0#5 0x340#12 21#5) ∧
  decodeWord 0xC00022F3#32 = .ok (.rdcycle 5#5) ∧
  decodeWord 0x10200073#32 = .ok .sret ∧
  decodeWord 0x00000073#32 = .error .notInTable

/-- Every word that matches no row of R204 and R206 is refused by the step that fetches it, and so is every 16-bit parcel; no
illegal-instruction exception is raised for it (R207). -/
def Obligations.WordsOutsideTheTableAreRefused : Prop :=
  ∀ (s : State) (w : InstrWord), Ready s w →
    (w.extractLsb' 0 2 ≠ 3#2 → step s = .refused .parcel16) ∧
    (w.extractLsb' 0 2 = 3#2 → ¬MatchesTable w → step s = .refused .wordNotInTable)

/-! ## One step of the hart -/

/-- A step runs the decoded instruction: where no interrupt is taken, the fetch is permitted and memory holds at the pc a word
that decodes to `i`, the step is `exec i` on the state with the inputs sampled, after which the inputs change (R360). Sampling
only adds the drawn cycles to `mcycle64` (R74). The end of the step changes the inputs, the schedule and the step number alone
(R381): the lines and cycles are those scheduled, `ext.nmi` stays false, and `ext.time` never decreases (R125). The schedule and
the step number are the model's own arrangement of the inputs, log entry 3. -/
def Obligations.StepRunsTheDecodedInstruction : Prop :=
  (∀ (s : State) (w : InstrWord) (i : Instr), Ready s w → decodeWord w = .ok i →
    step s = match exec i (sampleInputs s) with
      | .next t => .next (endStep t)
      | .fault f => .fault f
      | .refused r => .refused r) ∧
  (∀ s : State, sampleInputs s = { s with mcycle := s.mcycle + s.env.cycles }) ∧
  ∀ t : State, ∃ e : Inputs,
    endStep t = { t with env := e, scheduled := t.scheduled.tail, tick := t.tick + 1 } ∧
    e.nmi = false ∧ t.env.time.toNat ≤ e.time.toNat ∧
    ∀ (next : Inputs) (rest : List Inputs), t.scheduled = next :: rest →
      e.meip = next.meip ∧ e.seip = next.seip ∧ e.ueip = next.ueip ∧ e.mtip = next.mtip ∧ e.msip = next.msip ∧
      e.cycles = next.cycles ∧ (t.env.time.toNat ≤ next.time.toNat → e.time = next.time)

/-- An interrupt is taken instead of the fetch: the pc of the instruction that has not executed goes to xepc, the trap value is
0 (R302, R313, R360). -/
def Obligations.StepTakesTheChosenInterrupt : Prop :=
  ∀ (s : State) (i : Interrupt), s.env.nmi = false → pickInterrupt s = some i →
    step s = .next (endStep (takeTrap (sampleInputs s) (.interrupt i) 0#64 s.pc))

/-- A fetch that the PMP check fails takes the instruction access fault, with the faulting address as trap value; a permitted
fetch where memory lacks a byte gives the step no meaning (R162, R177, R302). -/
def Obligations.FetchFailuresTrapOrRefuse : Prop :=
  ∀ s : State, s.env.nmi = false → pickInterrupt s = none →
    (pmpCheck s s.pc.toNat 4 .fetch s.priv = .fail →
      step s = .next (endStep (takeTrap (sampleInputs s) (.exception .instructionAccessFault) s.pc s.pc))) ∧
    (pmpCheck s s.pc.toNat 4 .fetch s.priv = .ok →
      (∃ k, k < 4 ∧ Memory.readByte s.mem (s.pc.toNat + k) = none) → step s = .refused .absentMemory)

/-- No step stores to memory or changes a parameter (R161, R183). -/
def Obligations.StepsNeverChangeMemory : Prop :=
  ∀ s s' : State, step s = .next s' →
    s'.cfg = s.cfg ∧ s'.mem = s.mem ∧ ∀ a, Memory.readByte s'.mem a = Memory.readByte s.mem a

/-- `minstret64` goes up by one for an instruction that completes, is left exactly as written by one that writes it, and does
not move for one that traps (R75). -/
def Obligations.CompletedInstructionsRetireOnce : Prop :=
  ∀ (i : Instr) (s t : State), exec i s = .next t →
    (t = raiseIllegal s (encode i) → t.minstret = s.minstret) ∧
    (t ≠ raiseIllegal s (encode i) →
      ((∀ a f, csrWriteOf s i = some (a, f) → a ≠ 0xB02#12 ∧ a ≠ 0xB82#12) → t.minstret = s.minstret + 1#64) ∧
      (∀ f, csrWriteOf s i = some (0xB02#12, f) →
        t.minstret = counterWriteLow s.cfg s.minstret (f (csrRead s .minstret))) ∧
      (∀ f, csrWriteOf s i = some (0xB82#12, f) →
        t.minstret = counterWriteHigh s.minstret (f (csrRead s .minstreth))))

/-- The only executions the model refuses are an MRET whose MPP names no implemented mode and a legal CSR write that would leave
MPP naming one (R49, R281). -/
def Obligations.OnlyIllegalPreviousModesAreRefused : Prop :=
  ∀ (i : Instr) (s : State) (e : Refusal), exec i s = .refused e ↔
    e = .illegalPreviousMode ∧ s.priv = .M ∧
      ((i = .mret ∧ modeOfCode s.cfg (getMpp s.mstatus) = none) ∨
        ∃ f, csrWriteOf s i = some (0x300#12, f) ∧ mppLegal s.cfg (getMpp (f (csrRead s .mstatus))) = false)

/-! ## The CSR instructions -/

/-- CSRRW writes `x[rs1]` to the CSR and the old value of the CSR to `rd`, `rs1` read before `rd` is written (R230, R231); for
`mstatus` the value written must be one R49 allows. -/
def Obligations.CsrrwSwapsRegisterAndCsr : Prop :=
  ∀ (s : State) (rd : Reg) (a : CsrAddr) (rs1 : Reg) (r : Csr), AccessLegal s a true r →
    (r = .mstatus → mppLegal s.cfg (getMpp (readX s rs1)) = true) →
    ∃ u, csrWrite s r (readX s rs1) = .next u ∧
      exec (.csrrw rd a rs1) s = .next (completeCsr (setX u rd (csrRead s r)) (some r))

/-- CSRRS sets in the CSR the bits that are high in `rs1`, reads the old value into `rd`, and does not write when the `rs1`
field is 0 (R230, R232). What is modified is the value read, but for `mip`, `sip` and `uip`, where SEIP and UEIP are the
software bits alone (R31; for SEIP that is the spec's own decision D13). -/
def Obligations.CsrrsSetsBits : Prop :=
  ∀ (s : State) (rd : Reg) (a : CsrAddr) (rs1 : Reg) (r : Csr), AccessLegal s a (rs1 != 0#5) r →
    IsRmwBase s r (csrRmwBase s r) ∧
    (rs1 = 0#5 → exec (.csrrs rd a rs1) s = .next (completeCsr (setX s rd (csrRead s r)) none)) ∧
    (rs1 ≠ 0#5 → (r = .mstatus → mppLegal s.cfg (getMpp (csrRmwBase s r ||| readX s rs1)) = true) →
      ∃ u, csrWrite s r (csrRmwBase s r ||| readX s rs1) = .next u ∧
        exec (.csrrs rd a rs1) s = .next (completeCsr (setX u rd (csrRead s r)) (some r)))

/-- CSRRC clears in the CSR the bits that are high in `rs1`, reads the old value into `rd`, and does not write when the `rs1`
field is 0 (R230, R233). What is modified is the value read, but for `mip`, `sip` and `uip`, where SEIP and UEIP are the
software bits alone (R31; for SEIP that is the spec's own decision D13). -/
def Obligations.CsrrcClearsBits : Prop :=
  ∀ (s : State) (rd : Reg) (a : CsrAddr) (rs1 : Reg) (r : Csr), AccessLegal s a (rs1 != 0#5) r →
    IsRmwBase s r (csrRmwBase s r) ∧
    (rs1 = 0#5 → exec (.csrrc rd a rs1) s = .next (completeCsr (setX s rd (csrRead s r)) none)) ∧
    (rs1 ≠ 0#5 → (r = .mstatus → mppLegal s.cfg (getMpp (csrRmwBase s r &&& ~~~readX s rs1)) = true) →
      ∃ u, csrWrite s r (csrRmwBase s r &&& ~~~readX s rs1) = .next u ∧
        exec (.csrrc rd a rs1) s = .next (completeCsr (setX u rd (csrRead s r)) (some r)))

/-- CSRRWI writes the zero-extended immediate, unless it is 0 and `CSRRWI_ZIMM0_WRITES` is false (R230, R234). -/
def Obligations.CsrrwiWritesTheImmediate : Prop :=
  ∀ (s : State) (rd : Reg) (a : CsrAddr) (z : Zimm) (r : Csr),
    AccessLegal s a (z != 0#5 || s.cfg.csrrwiZimm0Writes) r →
    (z = 0#5 → s.cfg.csrrwiZimm0Writes = false →
      exec (.csrrwi rd a z) s = .next (completeCsr (setX s rd (csrRead s r)) none)) ∧
    (z ≠ 0#5 ∨ s.cfg.csrrwiZimm0Writes = true →
      (r = .mstatus → mppLegal s.cfg (getMpp (z.setWidth 64)) = true) →
      ∃ u, csrWrite s r (z.setWidth 64) = .next u ∧
        exec (.csrrwi rd a z) s = .next (completeCsr (setX u rd (csrRead s r)) (some r)))

/-- CSRRSI sets the bits of the zero-extended immediate and does not write when it is 0 (R230, R235). What is
modified is the value read, but for `mip`, `sip` and `uip`, where SEIP and UEIP are the software bits alone (R31; for SEIP that is
the spec's own decision D13). -/
def Obligations.CsrrsiSetsImmediateBits : Prop :=
  ∀ (s : State) (rd : Reg) (a : CsrAddr) (z : Zimm) (r : Csr), AccessLegal s a (z != 0#5) r →
    IsRmwBase s r (csrRmwBase s r) ∧
    (z = 0#5 → exec (.csrrsi rd a z) s = .next (completeCsr (setX s rd (csrRead s r)) none)) ∧
    (z ≠ 0#5 → (r = .mstatus → mppLegal s.cfg (getMpp (csrRmwBase s r ||| z.setWidth 64)) = true) →
      ∃ u, csrWrite s r (csrRmwBase s r ||| z.setWidth 64) = .next u ∧
        exec (.csrrsi rd a z) s = .next (completeCsr (setX u rd (csrRead s r)) (some r)))

/-- CSRRCI clears the bits of the zero-extended immediate and does not write when it is 0 (R230, R236). What is
modified is the value read, but for `mip`, `sip` and `uip`, where SEIP and UEIP are the software bits alone (R31; for SEIP that is
the spec's own decision D13). -/
def Obligations.CsrrciClearsImmediateBits : Prop :=
  ∀ (s : State) (rd : Reg) (a : CsrAddr) (z : Zimm) (r : Csr), AccessLegal s a (z != 0#5) r →
    IsRmwBase s r (csrRmwBase s r) ∧
    (z = 0#5 → exec (.csrrci rd a z) s = .next (completeCsr (setX s rd (csrRead s r)) none)) ∧
    (z ≠ 0#5 → (r = .mstatus → mppLegal s.cfg (getMpp (csrRmwBase s r &&& ~~~z.setWidth 64)) = true) →
      ∃ u, csrWrite s r (csrRmwBase s r &&& ~~~z.setWidth 64) = .next u ∧
        exec (.csrrci rd a z) s = .next (completeCsr (setX u rd (csrRead s r)) (some r)))

/-- A CSR access that fails one of the five conditions of R28 raises the illegal-instruction exception with the instruction word
as trap value, whichever instruction makes it, and writes neither `rd` nor the CSR (R28, R301). -/
def Obligations.IllegalCsrAccessesRaise : Prop :=
  ∀ (i : Instr) (s : State) (a : CsrAddr) (w : Bool), csrUse s.cfg i = some (a, w) →
    (¬∃ r, AccessLegal s a w r) →
    ∃ t, exec i s = .next t ∧ t = takeTrap s (.exception .illegalInstruction) ((encode i).setWidth 64) s.pc ∧
      (∀ q, readX t q = readX s q) ∧ t.minstret = s.minstret

/-- THE FRAME of the CSR instructions that complete: CSRRW, CSRRS, CSRRC, CSRRWI, CSRRSI, CSRRCI and the six RDxxx change `rd`,
the pc, the retirement count and the one cell behind the CSR they write; every other register, every other cell of the CSR file,
the mode and all of memory stay (R230). -/
def Obligations.CsrInstructionsChangeOnlyTheirTargets : Prop :=
  ∀ (i : Instr) (s t : State) (a : CsrAddr) (w : Bool) (r : Csr), csrUse s.cfg i = some (a, w) → AccessLegal s a w r →
    exec i s = .next t →
    t.pc = truncXlen s.cfg (s.pc + 4#64) ∧ t.priv = s.priv ∧ t.cfg = s.cfg ∧ t.env = s.env ∧
    (∀ b, Memory.readByte t.mem b = Memory.readByte s.mem b) ∧
    (∀ q, readX t q = if destination i = some q ∧ q ≠ 0#5 then truncXlen s.cfg (csrRead s r) else readX s q) ∧
    t.scheduled = s.scheduled ∧ t.tick = s.tick ∧
    (∀ c : Cell, c ≠ .minstret → (w = true → cellWritten r ≠ some c) → cellValue t c = cellValue s c)

/-- A read-only CSR is only ever read: CSRRW is always illegal on it, CSRRS and CSRRC are legal only with `rs1` = x0, CSRRSI and
CSRRCI only with `zimm` = 0, CSRRWI only with `zimm` = 0 and `CSRRWI_ZIMM0_WRITES` = false (R237). -/
def Obligations.ReadOnlyCsrsAreNeverWritten : Prop :=
  ∀ (s : State) (rd : Reg) (f : BitVec 5) (r : Csr), csrReadOnly r = true → AccessLegal s (csrAddress r) false r →
    let a := csrAddress r
    let reads := Host.Outcome.next (ρ := Refusal) (φ := Fault) (completeCsr (setX s rd (csrRead s r)) none)
    let raises := fun i => Host.Outcome.next (ρ := Refusal) (φ := Fault) (raiseIllegal s (encode i))
    exec (.csrrw rd a f) s = raises (.csrrw rd a f) ∧
    exec (.csrrs rd a f) s = (if f = 0#5 then reads else raises (.csrrs rd a f)) ∧
    exec (.csrrc rd a f) s = (if f = 0#5 then reads else raises (.csrrc rd a f)) ∧
    exec (.csrrwi rd a f) s =
      (if f = 0#5 ∧ s.cfg.csrrwiZimm0Writes = false then reads else raises (.csrrwi rd a f)) ∧
    exec (.csrrsi rd a f) s = (if f = 0#5 then reads else raises (.csrrsi rd a f)) ∧
    exec (.csrrci rd a f) s = (if f = 0#5 then reads else raises (.csrrci rd a f))

/-! ## The CSRs -/

/-- A CSR write reaches only the cell behind its CSR: a CSR that does not show that cell reads as before, and nothing outside
the CSR file changes: no integer register, not the pc, the mode, memory, the parameters, the inputs or their schedule (R30). -/
def Obligations.CsrWritesReachOnlyTheirCell : Prop :=
  ∀ (s t : State) (r : Csr) (v : Word), csrWrite s r v = .next t →
    (∀ q : Csr, (∀ c, cellWritten r = some c → c ∉ cellsRead q) → csrRead t q = csrRead s q) ∧
    (∀ q, readX t q = readX s q) ∧ t.pc = s.pc ∧ t.priv = s.priv ∧
    t.cfg = s.cfg ∧ t.env = s.env ∧ t.scheduled = s.scheduled ∧ t.tick = s.tick ∧
    (∀ a, Memory.readByte t.mem a = Memory.readByte s.mem a)

/-- The registers stored as written read back the XLEN-bit value (R67, R68, R72, R109, R114, R119, R122); the vectors read back
with MODE bit 1 clear (R57, R58, R108, R118) and the exception pcs with their low bits clear (R69, R110, R120). A write of `mcycle`
or `minstret` replaces the low XLEN bits of the 64-bit counter, one of `mcycleh` or `minstreth` its bits 63:32 by the low 32 bits
written, and each reads back what was written (R74, R75). -/
def Obligations.RegistersReadBackTheirLegalValue : Prop :=
  ∀ (s t : State) (r : Csr) (v : Word), csrWrite s r v = .next t →
    (r = .mnmivec ∨ r = .mscratch ∨ r = .mtval ∨ r = .sscratch ∨ r = .uscratch ∨ r = .utval ∨ r = .satp ∨
        r = .mcycle ∨ r = .minstret →
      csrRead t r = truncXlen s.cfg v) ∧
    (r = .mtvec ∨ r = .stvec ∨ r = .utvec →
      ∀ n, (csrRead t r).getLsbD n = (decide (n < s.cfg.xlen.bits) && decide (n ≠ 1) && v.getLsbD n)) ∧
    (r = .mepc ∨ r = .sepc ∨ r = .uepc →
      ∀ n, (csrRead t r).getLsbD n =
        (decide (n < s.cfg.xlen.bits) && decide (n ≠ 0) && (decide (n ≠ 1) || s.cfg.hasRvc) && v.getLsbD n)) ∧
    (r = .mcounteren ∨ r = .scounteren → csrRead t r = v &&& 7#64) ∧
    (r = .mcycleh ∨ r = .minstreth → csrRead t r = v &&& 0xFFFFFFFF#64) ∧
    (r = .mcycle → ∀ n, t.mcycle.getLsbD n = if n < s.cfg.xlen.bits then v.getLsbD n else s.mcycle.getLsbD n) ∧
    (r = .minstret → ∀ n, t.minstret.getLsbD n = if n < s.cfg.xlen.bits then v.getLsbD n else s.minstret.getLsbD n) ∧
    (r = .mcycleh → ∀ n, t.mcycle.getLsbD n = if 32 ≤ n ∧ n < 64 then v.getLsbD (n - 32) else s.mcycle.getLsbD n) ∧
    (r = .minstreth → ∀ n, t.minstret.getLsbD n = if 32 ≤ n ∧ n < 64 then v.getLsbD (n - 32) else s.minstret.getLsbD n)

/-- The delegation, enable and pending registers store exactly the bits their rules name and read 0 elsewhere
(R59, R60, R62, R63, R103, R104). -/
def Obligations.DelegationAndEnableRegistersStoreTheirBits : Prop :=
  ∀ (s t : State) (r : Csr) (v : Word), Wf s → csrWrite s r v = .next t →
    (r = .medeleg → csrRead t r = if s.cfg.hasS = true ∨ s.cfg.hasN = true then v &&& 0xBBFF#64 else 0#64) ∧
    (r = .sedeleg → csrRead t r = if s.cfg.hasN = true then v &&& 0xBBFF#64 else 0#64) ∧
    (r = .sideleg → csrRead t r = if s.cfg.hasN = true then v &&& 0x111#64 else 0#64) ∧
    (r = .mideleg → ∀ n, (csrRead t r).getLsbD n = (v.getLsbD n &&
      ((s.cfg.hasS && (n == 1 || n == 5 || n == 9)) || (s.cfg.hasN && (n == 0 || n == 4 || n == 8))))) ∧
    (r = .mie → ∀ n, (csrRead t r).getLsbD n = (v.getLsbD n &&
      ((n == 3 || n == 7 || n == 11) || (s.cfg.hasS && (n == 1 || n == 5 || n == 9)) ||
        (s.cfg.hasN && (n == 0 || n == 4 || n == 8))))) ∧
    (r = .mip → ∀ n, t.mipSw.getLsbD n = (v.getLsbD n &&
      ((s.cfg.hasS && (n == 1 || n == 5 || n == 9)) || (s.cfg.hasN && (n == 0 || n == 4 || n == 8)))))

/-- A read of `mstatus` gives each stored bit at its position, SXL = 2 with S-mode and UXL = 2 with U-mode for XLEN = 64, and 0 at
every other position; a write copies into each stored bit that exists under the parameters and changes no other bit (R51, R56;
the constant SXL and UXL and the zeros are the spec's own decisions D8, D7 and D5). -/
def Obligations.MstatusReadsAndWritesItsStoredBits : Prop :=
  ∀ s : State,
    (Wf s → ∀ n, (csrRead s .mstatus).getLsbD n =
      if MstatusStores s.cfg n then s.mstatus.getLsbD n
      else decide (s.cfg.xlen = .rv64 ∧ ((s.cfg.hasS = true ∧ n = 35) ∨ (s.cfg.hasU = true ∧ n = 33)))) ∧
    ∀ (t : State) (v : Word), csrWrite s .mstatus v = .next t →
      ∀ n, t.mstatus.getLsbD n = if MstatusStores s.cfg n then v.getLsbD n else s.mstatus.getLsbD n

/-- `sstatus` and `ustatus` are views of `mstatus`: they show its bits 0x40133 and 0x11, and a write through them replaces SUM,
SPP, SPIE, SIE (with S) and UPIE, UIE (with N), or UPIE and UIE alone, leaving MIE, MPIE, MPP, MPRV, MXR (R100, R115). -/
def Obligations.StatusViewsWriteOnlyTheirBits : Prop :=
  ∀ s : State,
    csrRead s .sstatus = csrRead s .mstatus &&& 0x40133#64 ∧ csrRead s .ustatus = csrRead s .mstatus &&& 0x11#64 ∧
    (∀ (t : State) (v : Word), csrWrite s .sstatus v = .next t → ∀ n, t.mstatus.getLsbD n =
      if (s.cfg.hasS = true ∧ (n = 1 ∨ n = 5 ∨ n = 8 ∨ n = 18)) ∨ (s.cfg.hasN = true ∧ (n = 0 ∨ n = 4))
      then v.getLsbD n else s.mstatus.getLsbD n) ∧
    (∀ (t : State) (v : Word), csrWrite s .ustatus v = .next t → ∀ n, t.mstatus.getLsbD n =
      if s.cfg.hasN = true ∧ (n = 0 ∨ n = 4) then v.getLsbD n else s.mstatus.getLsbD n)

/-- `sie` and `sip` show of `mie` and `mip` the supervisor and user bits that `mideleg` delegates, `uie` and `uip` the user bits
delegated to U-mode, and 0 elsewhere. Through `sie` and `uie` only the bits they show can be changed, through `sip` only SSIP, USIP
and UEIP, through `uip` only USIP, each only where it is shown (R105, R106, R107, R116, R117). -/
def Obligations.InterruptViewsShowAndWriteOnlyDelegatedBits : Prop :=
  ∀ (s : State) (n : Nat),
    ((csrRead s .sie).getLsbD n = if InSupervisorView s n then s.mie.getLsbD n else false) ∧
    ((csrRead s .sip).getLsbD n = if InSupervisorView s n then (csrRead s .mip).getLsbD n else false) ∧
    ((csrRead s .uie).getLsbD n = if InUserView s n then s.mie.getLsbD n else false) ∧
    ((csrRead s .uip).getLsbD n = if InUserView s n then (csrRead s .mip).getLsbD n else false) ∧
    ∀ (t : State) (v : Word),
      (csrWrite s .sie v = .next t → t.mie.getLsbD n =
        if InSupervisorView s n then v.getLsbD n else s.mie.getLsbD n) ∧
      (csrWrite s .uie v = .next t → t.mie.getLsbD n =
        if InUserView s n then v.getLsbD n else s.mie.getLsbD n) ∧
      (csrWrite s .sip v = .next t → t.mipSw.getLsbD n =
        if InSupervisorView s n ∧ (n = 0 ∨ n = 1 ∨ n = 8) then v.getLsbD n else s.mipSw.getLsbD n) ∧
      (csrWrite s .uip v = .next t → t.mipSw.getLsbD n =
        if InUserView s n ∧ n = 0 then v.getLsbD n else s.mipSw.getLsbD n)

/-- No input is ever latched into the software pending bits: whatever the platform drives, an instruction leaves the same
`mip_sw`; in particular a set or clear of `mip`, `sip` or `uip` ignores the controller's signal (R31, R232). -/
def Obligations.InputsAreNeverLatchedIntoSoftwareBits : Prop :=
  ∀ (i : Instr) (s t t' : State) (e : Inputs), exec i s = .next t → exec i { s with env := e } = .next t' →
    t'.mipSw = t.mipSw

/-- The identity registers: `mvendorid` is `{JEDEC_BANK-1, JEDEC_MANUFACTURER_ID[6:0]}` (0x4EE for the Roa Logic id), `marchid`
0x12, `mimpid` the parameter, `misa` the base width and the extensions; a write of `misa` changes nothing (R40, R41, R42, R43;
that `misa` is constant is the spec's own decision D6). -/
def Obligations.IdentityRegistersAreConstant : Prop :=
  ∀ s : State,
    (csrRead s .mvendorid).toNat =
      ((s.cfg.jedecBank - 1) * 128 + s.cfg.jedecManufacturerId.toNat % 128) % 2 ^ s.cfg.xlen.bits ∧
    (s.cfg.jedecBank = 10 → s.cfg.jedecManufacturerId = 0x6E#8 → csrRead s .mvendorid = 0x4EE#64) ∧
    csrRead s .marchid = 0x12#64 ∧ (csrRead s .mimpid).toNat = s.cfg.mimpid.val ∧
    (∀ n, n < 26 → (csrRead s .misa).getLsbD n = s.cfg.misaExt.getLsbD n) ∧
    (csrRead s .misa).toNat / 2 ^ 26 = (if s.cfg.xlen = .rv32 then 2 ^ 4 else 2 ^ 37) ∧
    ∀ v, csrWrite s .misa v = .next s

/-- `mhartid` always reads zero, and an attempt to write it is an illegal instruction (R44, R28). -/
def Obligations.HartIdAlwaysReadsZero : Prop :=
  ∀ (s : State) (rd rs1 : Reg),
    csrRead s .mhartid = 0#64 ∧
    (s.priv = .M → exec (.csrrs rd 0xF14#12 0#5) s = .next (completeCsr (setX s rd 0#64) none)) ∧
    exec (.csrrw rd 0xF14#12 rs1) s = .next (raiseIllegal s (encode (.csrrw rd 0xF14#12 rs1)))

/-- The codes of the cause table, one for each interrupt and each exception (R71); the value a trap writes is `{interrupt, code}`
with the centre bits 0 (R70); and the values that a cause register gives back are exactly those a trap can write. -/
def Obligations.ListedCausesAreTheTrapCauses : Prop :=
  [Interrupt.userSoftware, .supervisorSoftware, .machineSoftware, .userTimer, .supervisorTimer, .machineTimer,
    .userExternal, .supervisorExternal, .machineExternal].map interruptCode = [0, 1, 3, 4, 5, 7, 8, 9, 11] ∧
  [Exception.instructionMisaligned, .instructionAccessFault, .illegalInstruction, .breakpoint, .loadMisaligned,
    .loadAccessFault, .storeMisaligned, .storeAccessFault, .ecallFromU, .ecallFromS, .ecallFromM, .instructionPageFault,
    .loadPageFault, .storePageFault].map exceptionCode = [0, 1, 2, 3, 4, 5, 6, 7, 8, 9, 11, 12, 13, 15] ∧
  ∀ c : Config,
    (∀ i, (causeValue c (.interrupt i)).toNat = 2 ^ (c.xlen.bits - 1) + interruptCode i) ∧
    (∀ e, (causeValue c (.exception e)).toNat = exceptionCode e) ∧
    ∀ v : Word, causeListed c v = true ↔ ∃ t : TrapCause, v = causeValue c t

/-- A value of the cause table written to `mcause` or `ucause` reads back unchanged (R70, R121). -/
def Obligations.ListedCausesReadBack : Prop :=
  ∀ (s t : State) (v : Word), causeListed s.cfg (truncXlen s.cfg v) = true →
    (csrWrite s .mcause v = .next t → csrRead t .mcause = truncXlen s.cfg v) ∧
    (csrWrite s .ucause v = .next t → csrRead t .ucause = truncXlen s.cfg v)

/-- The performance counters and event selectors exist, read 0 and ignore writes: in M-mode a CSRRW of one completes and changes
only `rd` (to 0), the pc and the retirement count (R76, R77). The user counters `hpmcounter` and `hpmcounterh` read 0 in M-mode, and
below M-mode every access raises, because the counter-enable bits above IR are 0 (R127, R128). That they read 0 is the spec's own
decision D17. -/
def Obligations.PerformanceCountersReadZeroAndIgnoreWrites : Prop :=
  ∀ (s : State) (rd rs1 : Reg) (k : Fin 29) (r : Csr),
    (s.priv = .M → r = .mhpmcounter k ∨ r = .mhpevent k ∨ (r = .mhpmcounterh k ∧ s.cfg.xlen = .rv32) →
      exec (.csrrw rd (csrAddress r) rs1) s = .next (advancePc (retire (setX s rd 0#64)))) ∧
    (s.priv = .M → r = .hpmcounter k ∨ (r = .hpmcounterh k ∧ s.cfg.xlen = .rv32) →
      exec (.csrrs rd (csrAddress r) 0#5) s = .next (advancePc (retire (setX s rd 0#64)))) ∧
    (Wf s → s.priv ≠ .M → r = .hpmcounter k ∨ r = .hpmcounterh k →
      exec (.csrrs rd (csrAddress r) rs1) s = .next (raiseIllegal s (encode (.csrrs rd (csrAddress r) rs1))))

/-- The write rules of the PMP registers: a locked or unimplemented configuration byte ignores the write, any other takes the
byte with bits 6:5 cleared; a write to `pmpaddr[i]` is ignored when the entry is unimplemented or locked or the next entry is
locked and TOR, and otherwise stores the address bits; an ignored write raises nothing (R134, R130, R132). -/
def Obligations.PmpWriteRules : Prop :=
  ∀ (s : State) (v : Word) (i : Fin 16),
    (∀ k : Fin 4, ∃ t, csrWrite s (.pmpcfg k) v = .next t ∧ t.pmpcfg[i] =
      if 4 * k.val ≤ i.val ∧ i.val < 4 * k.val + (if s.cfg.xlen = .rv32 then 4 else 8) ∧
        i.val < s.cfg.pmpCnt.val ∧ s.pmpcfg[i].getLsbD 7 = false
      then v.extractLsb' (8 * (i.val - 4 * k.val)) 8 &&& 0x9F#8 else s.pmpcfg[i]) ∧
    (∀ j : Fin 16, ∃ t, csrWrite s (.pmpaddr j) v = .next t ∧ t.pmpaddr[i] =
      if i = j ∧ i.val < s.cfg.pmpCnt.val ∧ s.pmpcfg[i].getLsbD 7 = false ∧
        (∀ n : Fin 16, n.val = i.val + 1 → ¬(s.pmpcfg[n].getLsbD 7 = true ∧ s.pmpcfg[n].extractLsb' 3 2 = 1#2))
      then v &&& (if s.cfg.xlen = .rv32 then 0xFFFFFFFF#64 else 0x3FFFFFFFFFFFFF#64) else s.pmpaddr[i])

/-- The packing of the configuration CSRs: byte `j` of the CSR 0x3A0 + `k` is `pmpcfg[4k + j]`, four bytes for XLEN = 32, eight
for XLEN = 64 (R130). -/
def Obligations.PmpcfgCsrsPackTheirBytes : Prop :=
  ∀ (s : State) (k : Fin 4) (j : Nat) (i : Fin 16), i.val = 4 * k.val + j →
    j < (if s.cfg.xlen = .rv32 then 4 else 8) → (csrRead s (.pmpcfg k)).extractLsb' (8 * j) 8 = s.pmpcfg[i]

/-! ## The counters -/

/-- RDCYCLE, RDTIME (where `time` does not trap) and RDINSTRET complete wherever the counter-enable bits permit, and read the low
XLEN bits of their counter (R261, R263, R265, R127). -/
def Obligations.CounterReadsGiveTheLowBits : Prop :=
  ∀ (s : State) (rd : Reg),
    (CounterEnabled s 0 →
      exec (.rdcycle rd) s = .next (advancePc (retire (setX s rd (truncXlen s.cfg s.mcycle))))) ∧
    (CounterEnabled s 1 → s.cfg.timeCsrTraps = false →
      exec (.rdtime rd) s = .next (advancePc (retire (setX s rd (truncXlen s.cfg s.env.time))))) ∧
    (CounterEnabled s 2 →
      exec (.rdinstret rd) s = .next (advancePc (retire (setX s rd (truncXlen s.cfg s.minstret)))))

/-- RDCYCLEH, RDTIMEH (where `timeh` does not trap) and RDINSTRETH complete for XLEN = 32 wherever the counter-enable bits
permit, and read bits 63:32 of their counter (R262, R264, R266). -/
def Obligations.HighCounterReadsGiveTheHighBits : Prop :=
  ∀ (s : State) (rd : Reg), s.cfg.xlen = .rv32 →
    (CounterEnabled s 0 → exec (.rdcycleh rd) s = .next (advancePc (retire (setX s rd (s.mcycle >>> 32))))) ∧
    (CounterEnabled s 1 → s.cfg.timeCsrTraps = false →
      exec (.rdtimeh rd) s = .next (advancePc (retire (setX s rd (s.env.time >>> 32))))) ∧
    (CounterEnabled s 2 → exec (.rdinstreth rd) s = .next (advancePc (retire (setX s rd (s.minstret >>> 32)))))

/-- The counter reads that trap: every access to `time` or `timeh` under `TIME_CSR_TRAPS`, in every mode; the `h` forms for
XLEN = 64; any form where the counter-enable bits forbid it (R125, R127, R262 to R266). -/
def Obligations.ForbiddenCounterReadsRaise : Prop :=
  ∀ (s : State) (rd : Reg),
    (s.cfg.timeCsrTraps = true ∨ ¬CounterEnabled s 1 →
      exec (.rdtime rd) s = .next (raiseIllegal s (encode (.rdtime rd)))) ∧
    (s.cfg.timeCsrTraps = true ∨ s.cfg.xlen = .rv64 ∨ ¬CounterEnabled s 1 →
      exec (.rdtimeh rd) s = .next (raiseIllegal s (encode (.rdtimeh rd)))) ∧
    (¬CounterEnabled s 0 → exec (.rdcycle rd) s = .next (raiseIllegal s (encode (.rdcycle rd)))) ∧
    (s.cfg.xlen = .rv64 ∨ ¬CounterEnabled s 0 →
      exec (.rdcycleh rd) s = .next (raiseIllegal s (encode (.rdcycleh rd)))) ∧
    (¬CounterEnabled s 2 → exec (.rdinstret rd) s = .next (raiseIllegal s (encode (.rdinstret rd)))) ∧
    (s.cfg.xlen = .rv64 ∨ ¬CounterEnabled s 2 →
      exec (.rdinstreth rd) s = .next (raiseIllegal s (encode (.rdinstreth rd))))

/-- The six counter instructions add no behaviour: each is CSRRS of its counter with `rs1` = x0 (R260, R205). -/
def Obligations.CounterInstructionsAreCsrrs : Prop :=
  ∀ (s : State) (rd : Reg),
    exec (.rdcycle rd) s = exec (.csrrs rd 0xC00#12 0#5) s ∧ exec (.rdcycleh rd) s = exec (.csrrs rd 0xC80#12 0#5) s ∧
    exec (.rdtime rd) s = exec (.csrrs rd 0xC01#12 0#5) s ∧ exec (.rdtimeh rd) s = exec (.csrrs rd 0xC81#12 0#5) s ∧
    exec (.rdinstret rd) s = exec (.csrrs rd 0xC02#12 0#5) s ∧
    exec (.rdinstreth rd) s = exec (.csrrs rd 0xC82#12 0#5) s

/-! ## Trap return -/

/-- MRET in M-mode with a legal MPP: MIE takes MPIE, MPIE becomes 1, MPP becomes U (or M without U-mode), the mode becomes MPP's,
the pc becomes `mepc`, one instruction retires, and nothing else changes (R280, R281). -/
def Obligations.MretReturnsToThePreviousMode : Prop :=
  ∀ (s : State) (y : Priv), s.priv = .M → modeOfCode s.cfg (getMpp s.mstatus) = some y →
    ∃ m, exec .mret s = .next { s with mstatus := m, priv := y, pc := s.mepc, minstret := s.minstret + 1#64 } ∧
      ∀ n, m.getLsbD n =
        if n = 3 then s.mstatus.getLsbD 7 else if n = 7 then true else if n = 11 ∨ n = 12 then !s.cfg.hasU
        else s.mstatus.getLsbD n

/-- SRET in S-mode or M-mode where S-mode is implemented: SIE takes SPIE, SPIE becomes 1, SPP becomes 0, the mode becomes S or U
by SPP, the pc becomes `sepc`, one instruction retires, and nothing else changes (R280, R282). -/
def Obligations.SretReturnsToThePreviousMode : Prop :=
  ∀ s : State, s.cfg.hasS = true → s.priv = .S ∨ s.priv = .M →
    ∃ m, exec .sret s = .next { s with
        mstatus := m, priv := if s.mstatus.getLsbD 8 then .S else .U, pc := s.sepc, minstret := s.minstret + 1#64 } ∧
      ∀ n, m.getLsbD n =
        if n = 1 then s.mstatus.getLsbD 5 else if n = 5 then true else if n = 8 then false else s.mstatus.getLsbD n

/-- URET in any mode where user-level interrupts are implemented: UIE takes UPIE, UPIE becomes 1, the mode becomes U, the pc
becomes `uepc`, one instruction retires, and nothing else changes (R280, R283). -/
def Obligations.UretReturnsToUserMode : Prop :=
  ∀ s : State, s.cfg.hasN = true →
    ∃ m, exec .uret s = .next { s with mstatus := m, priv := .U, pc := s.uepc, minstret := s.minstret + 1#64 } ∧
      ∀ n, m.getLsbD n =
        if n = 0 then s.mstatus.getLsbD 4 else if n = 4 then true else s.mstatus.getLsbD n

/-- An xRET that is not legal raises the illegal-instruction exception with its word as trap value and changes nothing else:
MRET below M-mode, SRET in U-mode or without S-mode, URET without user-level interrupts (R280, R301). -/
def Obligations.IllegalReturnsRaise : Prop :=
  ∀ s : State,
    (s.priv ≠ .M →
      exec .mret s = .next (takeTrap s (.exception .illegalInstruction) 0x30200073#64 s.pc)) ∧
    (s.cfg.hasS = false ∨ s.priv = .U →
      exec .sret s = .next (takeTrap s (.exception .illegalInstruction) 0x10200073#64 s.pc)) ∧
    (s.cfg.hasN = false →
      exec .uret s = .next (takeTrap s (.exception .illegalInstruction) 0x00200073#64 s.pc))

/-! ## Taking a trap -/

/-- Trap entry, for each handling mode: the cause, the exception pc (low bits forced to 0) and the trap value are written to that
mode's registers, xPIE takes xIE, xIE becomes 0, xPP takes the old mode, the pc goes to the vector, and nothing else changes
(R320). -/
def Obligations.TrapEntrySavesAndVectors : Prop :=
  ∀ (s : State) (t : TrapCause) (tval epc : Word),
    (trapHandler s t = .M → ∃ m, takeTrap s t tval epc = { s with
        mcause := causeValue s.cfg t, mepc := epcLegal s.cfg epc, mtval := truncXlen s.cfg tval
        mstatus := m, priv := .M, pc := trapVector s.cfg s.mtvec t } ∧
      ∀ n, m.getLsbD n =
        if n = 7 then s.mstatus.getLsbD 3 else if n = 3 then false
        else if n = 11 then s.priv != .U else if n = 12 then s.priv == .M else s.mstatus.getLsbD n) ∧
    (trapHandler s t = .S → ∃ m, takeTrap s t tval epc = { s with
        scause := causeValue s.cfg t, sepc := epcLegal s.cfg epc, stval := truncXlen s.cfg tval
        mstatus := m, priv := .S, pc := trapVector s.cfg s.stvec t } ∧
      ∀ n, m.getLsbD n =
        if n = 5 then s.mstatus.getLsbD 1 else if n = 1 then false else if n = 8 then s.priv != .U
        else s.mstatus.getLsbD n) ∧
    (trapHandler s t = .U → ∃ m, takeTrap s t tval epc = { s with
        ucause := causeValue s.cfg t, uepc := epcLegal s.cfg epc, utval := truncXlen s.cfg tval
        mstatus := m, priv := .U, pc := trapVector s.cfg s.utvec t } ∧
      ∀ n, m.getLsbD n =
        if n = 4 then s.mstatus.getLsbD 0 else if n = 0 then false else s.mstatus.getLsbD n)

/-- The vector: exceptions, and every trap in Direct mode, go to BASE; an interrupt in Vectored mode goes to BASE + 4 * cause,
modulo 2^XLEN (R321). -/
def Obligations.TrapsVectorToBaseOrBasePlusFourTimesCause : Prop :=
  ∀ (c : Config) (tvec : Word),
    (∀ e n, (trapVector c tvec (.exception e)).getLsbD n =
      (decide (2 ≤ n) && decide (n < c.xlen.bits) && tvec.getLsbD n)) ∧
    (∀ i, tvec.extractLsb' 0 2 ≠ 1#2 → ∀ n, (trapVector c tvec (.interrupt i)).getLsbD n =
      (decide (2 ≤ n) && decide (n < c.xlen.bits) && tvec.getLsbD n)) ∧
    (∀ i, tvec.extractLsb' 0 2 = 1#2 → (trapVector c tvec (.interrupt i)).toNat =
      (tvec.toNat % 2 ^ c.xlen.bits / 4 * 4 + 4 * interruptCode i) % 2 ^ c.xlen.bits)

/-- Which mode handles a trap: an exception from M-mode, or one that `medeleg` does not delegate, goes to M; a delegated one goes
to S, or from U-mode to U where `sedeleg` passes it on; without S-mode it goes to U. An interrupt goes by `mideleg` and
`sideleg` alone (R330, R331). -/
def Obligations.DelegationChoosesTheHandler : Prop :=
  ∀ s : State,
    (∀ e, let d := s.medeleg.getLsbD (exceptionCode e)
      let d2 := s.sedeleg.getLsbD (exceptionCode e)
      (exceptionHandler s e = .M ↔ s.priv = .M ∨ d = false) ∧
      (exceptionHandler s e = .S ↔
        s.priv ≠ .M ∧ d = true ∧ s.cfg.hasS = true ∧ ¬(s.priv = .U ∧ s.cfg.hasN = true ∧ d2 = true)) ∧
      (exceptionHandler s e = .U ↔
        s.priv ≠ .M ∧ d = true ∧ (s.cfg.hasS = true → s.priv = .U ∧ s.cfg.hasN = true ∧ d2 = true))) ∧
    (∀ i, let d := s.mideleg.getLsbD (interruptCode i)
      let d2 := s.sideleg.getLsbD (interruptCode i)
      (interruptHandler s i = .M ↔ d = false) ∧
      (interruptHandler s i = .S ↔ d = true ∧ s.cfg.hasS = true ∧ ¬(s.cfg.hasN = true ∧ d2 = true)) ∧
      (interruptHandler s i = .U ↔ d = true ∧ (s.cfg.hasS = true → s.cfg.hasN = true ∧ d2 = true)))

/-- A trap never goes to a mode below the one it occurred in: neither an exception nor an interrupt that is taken
(R330, R312). -/
def Obligations.TrapsNeverLowerThePrivilege : Prop :=
  ∀ s : State, Wf s →
    (∀ e, privLe s.priv (exceptionHandler s e) = true) ∧
    (∀ i, pickInterrupt s = some i → privLe s.priv (interruptHandler s i) = true)

/-! ## Interrupts -/

/-- The pending bits: MEIP, MTIP and MSIP are the inputs, SSIP, STIP, USIP and UTIP the software bits, SEIP and UEIP the OR of
the software bit and the controller's signal where the level is supported, and no other bit is ever pending (R61, R64, R65,
R66). That SEIP is treated like UEIP is the spec's own decision D13. -/
def Obligations.PendingBitsComeFromInputsAndSoftware : Prop :=
  ∀ s : State, Wf s → ∀ n, (mipRead s).getLsbD n =
    if n = 11 then s.env.meip else if n = 7 then s.env.mtip else if n = 3 then s.env.msip
    else if n = 9 then s.mipSw.getLsbD 9 || (s.cfg.hasS && s.env.seip)
    else if n = 8 then s.mipSw.getLsbD 8 || (s.cfg.hasN && s.env.ueip)
    else if n = 0 ∨ n = 1 ∨ n = 4 ∨ n = 5 then s.mipSw.getLsbD n else false

/-- An interrupt is takeable exactly when its bit is set in both `mip` and `mie` and it is globally enabled: it is handled in
M-mode and the mode is below M or MIE is set, or handled in S-mode and the mode is U, or S with SIE set, or handled in U-mode and
the mode is U with UIE set (R312, on the candidates of R311). -/
def Obligations.PendingEnabledInterruptsAreTakeable : Prop :=
  ∀ (s : State) (i : Interrupt), takeable s i = true ↔
    ((csrRead s .mip).getLsbD (interruptCode i) = true ∧ (csrRead s .mie).getLsbD (interruptCode i) = true) ∧
      ((interruptHandler s i = .M ∧ (s.priv ≠ .M ∨ s.mstatus.getLsbD 3 = true)) ∨
        (interruptHandler s i = .S ∧ (s.priv = .U ∨ (s.priv = .S ∧ s.mstatus.getLsbD 1 = true))) ∨
        (interruptHandler s i = .U ∧ s.priv = .U ∧ s.mstatus.getLsbD 0 = true))

/-- Among the takeable interrupts the hart takes one of the highest handling mode, and within that mode the first in the order
MEI, MSI, MTI, SEI, SSI, STI, UEI, USI, UTI; it takes none only when none is takeable (R314, R313). -/
def Obligations.TheHighestPriorityInterruptIsTaken : Prop :=
  ∀ s : State,
    let order := [Interrupt.machineExternal, .machineSoftware, .machineTimer, .supervisorExternal, .supervisorSoftware,
      .supervisorTimer, .userExternal, .userSoftware, .userTimer]
    (pickInterrupt s = none ↔ ∀ i, takeable s i = false) ∧
    ∀ i, pickInterrupt s = some i →
      takeable s i = true ∧ ∀ j, takeable s j = true →
        privLe (interruptHandler s j) (interruptHandler s i) = true ∧
        (interruptHandler s j = interruptHandler s i → order.idxOf i ≤ order.idxOf j)

/-! ## Physical memory protection -/

/-- The PMP verdict: the lowest-numbered implemented entry that shares a byte with the access decides; it must cover the whole
access; then M-mode passes an unlocked entry and otherwise the permission bit decides; with no match M-mode passes, and S-mode
and U-mode fail exactly when an entry is implemented (R172, R174, R175, R176). -/
def Obligations.PmpVerdictFollowsTheFirstMatch : Prop :=
  ∀ (s : State) (addr n : Nat) (type : AccessType) (p : Priv),
    let shares := fun i : Fin 16 => ∃ b, addr ≤ b ∧ b < addr + n ∧ (pmpRegion s i).1 ≤ b ∧ b < (pmpRegion s i).2
    (∀ i : Fin 16, i.val < s.cfg.pmpCnt.val → shares i → (∀ j : Fin 16, j < i → ¬shares j) →
      (pmpCheck s addr n type p = .ok ↔
        (∀ b, addr ≤ b → b < addr + n → (pmpRegion s i).1 ≤ b ∧ b < (pmpRegion s i).2) ∧
          ((s.pmpcfg[i].getLsbD 7 = false ∧ p = .M) ∨
            s.pmpcfg[i].getLsbD (match type with | .load => 0 | .store => 1 | .fetch => 2) = true))) ∧
    ((∀ i : Fin 16, i.val < s.cfg.pmpCnt.val → ¬shares i) →
      (pmpCheck s addr n type p = .ok ↔ p = .M ∨ s.cfg.pmpCnt.val = 0))

/-- The regions: OFF is empty; TOR runs from the preceding address register (0 for entry 0) up to its own; NA4 is four bytes;
NAPOT is the naturally aligned range of 2^(t+3) bytes around its address, `t` being the number of trailing ones of the address
register (R173). -/
def Obligations.PmpRegionsFollowTheirMode : Prop :=
  ∀ (s : State) (i : Fin 16),
    let pa := s.pmpaddr[i].toNat
    let mode := s.pmpcfg[i].extractLsb' 3 2
    let width := if s.cfg.xlen = .rv32 then 32 else 54
    (mode = 0#2 → ∀ b, ¬((pmpRegion s i).1 ≤ b ∧ b < (pmpRegion s i).2)) ∧
    (mode = 1#2 → (pmpRegion s i).2 = 4 * pa ∧ (i.val = 0 → (pmpRegion s i).1 = 0) ∧
      ∀ j : Fin 16, j.val + 1 = i.val → (pmpRegion s i).1 = 4 * s.pmpaddr[j].toNat) ∧
    (mode = 2#2 → pmpRegion s i = (4 * pa, 4 * pa + 4)) ∧
    (mode = 3#2 → ∃ t, t ≤ width ∧ (∀ k, k < t → pa.testBit k = true) ∧ (t < width → pa.testBit t = false) ∧
      (pmpRegion s i).2 = (pmpRegion s i).1 + 2 ^ (t + 3) ∧ 2 ^ (t + 3) ∣ (pmpRegion s i).1 ∧
      (pmpRegion s i).1 ≤ 4 * pa ∧ 4 * pa < (pmpRegion s i).2)

/-- The effective privilege of an access: fetches at the current mode; loads and stores at the mode MPP names while MPRV is set,
else at the current mode (R171). Where MPP names no implemented mode R171 calls the result undefined: that there is then no effective
privilege, so that the access is refused, is the model's choice on that point, by U3 and the spec's decision D37 (log entry 10). -/
def Obligations.MprvSelectsTheAccessPrivilege : Prop :=
  ∀ s : State,
    effectivePriv s .fetch = some s.priv ∧
    ∀ type, type = .load ∨ type = .store →
      (s.mstatus.getLsbD 17 = false → effectivePriv s type = some s.priv) ∧
      (s.mstatus.getLsbD 17 = true → ∀ y, hasMode s.cfg y = true → getMpp s.mstatus = privCode y →
        effectivePriv s type = some y) ∧
      (s.mstatus.getLsbD 17 = true → modeOfCode s.cfg (getMpp s.mstatus) = none → effectivePriv s type = none)

/-- A checked store that the PMP permits where memory is present changes exactly its bytes, in canonical form; a failed check
raises the access fault of its type, and the access is not performed (R161, R177). -/
def Obligations.CheckedAccessesObeyThePmp : Prop :=
  ∀ (s : State) (addr : Nat) (bs : List Byte) (p : Priv), effectivePriv s .store = some p →
    (pmpCheck s addr bs.length .store p = .fail → checkedWrite s addr bs = .fault .storeAccessFault) ∧
    (pmpCheck s addr bs.length .load p = .fail → checkedRead s addr bs.length .load = .fault .loadAccessFault) ∧
    (pmpCheck s addr bs.length .store p = .ok →
      (∀ k, k < bs.length → (Memory.readByte s.mem (addr + k)).isSome = true) →
      ∃ t, checkedWrite s addr bs = .next t ∧ t = { s with mem := t.mem } ∧
        (Memory.wf s.mem = true → Memory.wf t.mem = true) ∧
        (∀ k, k < bs.length → Memory.readByte t.mem (addr + k) = bs[k]?) ∧
        ∀ b, b < addr ∨ addr + bs.length ≤ b → Memory.readByte t.mem b = Memory.readByte s.mem b)

/-! ## Reset -/

/-- The model's reset states are legal reset states in every legal configuration, and the configuration of `State.reset` is one:
M-mode, MIE = 0, MPRV = 0, the pc at `PC_INIT`, every PMP entry unlocked and OFF, every register at a legal value (R372). The
values of the elements R372 calls unspecified are the model's choice, log entry 4. -/
def Obligations.ResetLeavesALegalState : Prop :=
  (∀ c : Config, c.Legal → IsReset (State.initial c)) ∧ Config.t32.Legal ∧ IsReset State.reset

/-- From every legal reset state, whatever its unspecified elements and inputs, the first step takes no interrupt and passes the
PMP check: the word at `PC_INIT` is executed (R372, R373). -/
def Obligations.TheFirstInstructionRunsFromAnyReset : Prop :=
  ∀ (s : State) (w : InstrWord) (i : Instr), IsReset s → HoldsWord s.mem s.cfg.pcInit.toNat w → decodeWord w = .ok i →
    step s = match exec i (sampleInputs s) with
      | .next t => .next (endStep t)
      | .fault f => .fault f
      | .refused r => .refused r

/-! ## Whole-machine rules -/

/-- Every step keeps the state well formed: every register at a legal value of its own rule (XLEN-bit values, hardwired bits 0,
MPP and the mode implemented, the pc and the exception pcs aligned, `scause` a listed cause, absent PMP entries 0) and memory in
canonical form (R20, R21, R22, R49, R56, R58, R69, R111, R131, R133). -/
def Obligations.EveryStepKeepsTheStateWellFormed : Prop :=
  ∀ s s' : State, Wf s → step s = .next s' → Wf s'

/-- Once L is 1 no instruction, trap or interrupt can clear it: a locked PMP entry keeps its configuration byte and its address
through every step, and so does the address below a locked TOR entry (R134). -/
def Obligations.LockedPmpEntriesNeverChange : Prop :=
  ∀ (s s' : State) (i : Fin 16), step s = .next s' →
    (s.pmpcfg[i].getLsbD 7 = true → s'.pmpcfg[i] = s.pmpcfg[i] ∧ s'.pmpaddr[i] = s.pmpaddr[i]) ∧
    (∀ j : Fin 16, j.val = i.val + 1 → s.pmpcfg[j].getLsbD 7 = true → s.pmpcfg[j].extractLsb' 3 2 = 1#2 →
      s'.pmpaddr[i] = s.pmpaddr[i])

/-- Only M-mode code changes the machine's control registers: a step from S-mode or U-mode leaves `mtvec`, `medeleg`, `mideleg`,
`mnmivec`, `mscratch`, `mcounteren` and the PMP registers as they are, whatever it runs and whatever trap it takes (R25, R28,
R320). -/
def Obligations.MachineControlChangesOnlyInMachineMode : Prop :=
  ∀ s s' : State, step s = .next s' → s.priv ≠ .M → machineControl s' = machineControl s

/-- The privilege mode rises only by trap entry and falls only by xRET; no CSR write changes it (R345). -/
def Obligations.PrivilegeRisesByTrapsAndFallsByReturns : Prop :=
  ∀ (i : Instr) (s t : State), Wf s → exec i s = .next t →
    (t = raiseIllegal s (encode i) ∧ privLe s.priv t.priv = true) ∨
    ((i = .mret ∨ i = .sret ∨ i = .uret) ∧ privLe t.priv s.priv = true) ∨
    (csrUse s.cfg i ≠ none ∧ t.priv = s.priv)

/-- Code below M-mode learns nothing of the machine's trap registers: two states in S-mode or U-mode that differ only in `mscratch`,
`mepc`, `mcause`, `mtval` and `mnmivec` step together, and their next states again differ only in those five registers, so that no
integer register, no other CSR, not the pc and not the mode depends on them; if one step is refused, so is the other, and for the
same reason (R27, R28, R345). -/
def Obligations.LowerModesLearnNothingOfMachineTrapRegisters : Prop :=
  ∀ (s : State) (scratch epc cause tval nmivec : Word), s.priv ≠ .M →
    let s' := { s with mscratch := scratch, mepc := epc, mcause := cause, mtval := tval, mnmivec := nmivec }
    (∀ t, step s = .next t → ∃ scratch' epc' cause' tval' nmivec', step s' = .next
      { t with mscratch := scratch', mepc := epc', mcause := cause', mtval := tval', mnmivec := nmivec' }) ∧
    ∀ e, step s = .refused e → step s' = .refused e
end

