-- ==== Sys2Proof/Laws/Bits.lean ====
section
/-! SUPPORT. What the bit operations of Machine/Flags.lean do, bit by bit: later proofs cite these lemmas and unfold none of the
operations. -/

namespace Sys2Proof.Machine

@[simp] theorem getLsbD_maskIf (b : Bool) (m : Word) (n : Nat) : (maskIf b m).getLsbD n = (b && m.getLsbD n) := by
  cases b <;> simp [maskIf]

/-- A merged register has the written bit inside the mask and the old bit outside it. -/
@[simp] theorem getLsbD_mergeBits (old v mask : Word) (n : Nat) :
    (mergeBits old v mask).getLsbD n = if mask.getLsbD n then v.getLsbD n else old.getLsbD n := by
  simp only [mergeBits, BitVec.getLsbD_or, BitVec.getLsbD_and, BitVec.getLsbD_not]
  cases h : mask.getLsbD n with
  | true => simp
  | false =>
    cases ho : old.getLsbD n with
    | false => simp
    | true => simp [BitVec.lt_of_getLsbD ho]

theorem getLsbD_one_shiftLeft (k n : Nat) : (1#64 <<< k).getLsbD n = (decide (n < 64) && decide (n = k)) := by
  rw [BitVec.getLsbD_shiftLeft, BitVec.getLsbD_one]
  by_cases h : n = k
  · subst h; simp
  · by_cases h2 : n < k
    · simp [h, h2]
    · have : n - k ≠ 0 := by omega
      simp [h, this]

/-- Setting bit `k` changes bit `k` alone. -/
theorem getLsbD_setBit (w : Word) (k : Nat) (b : Bool) (n : Nat) (hk : k < 64) :
    (setBit w k b).getLsbD n = if n = k then b else w.getLsbD n := by
  unfold setBit
  rw [getLsbD_mergeBits, getLsbD_one_shiftLeft]
  by_cases h : n = k
  · subst h; cases b <;> simp [hk]
  · by_cases hn : n < 64
    · simp [h]
    · simp [h, BitVec.getLsbD_of_ge w n (by omega)]

/-- Setting MPP changes bits 12:11 alone. -/
theorem getLsbD_setMpp (m : Word) (code : BitVec 2) (n : Nat) :
    (setMpp m code).getLsbD n =
      if n = 11 then code.getLsbD 0 else if n = 12 then code.getLsbD 1 else m.getLsbD n := by
  have hmask : ∀ k : Fin 64, (0x1800#64).getLsbD k.val = (k.val == 11 || k.val == 12) := by decide
  unfold setMpp
  rw [getLsbD_mergeBits]
  by_cases hn : n < 64
  · rw [hmask ⟨n, hn⟩]
    by_cases h11 : n = 11
    · subst h11; simp
    · by_cases h12 : n = 12
      · subst h12; simp
      · simp [h11, h12]
  · have h11 : n ≠ 11 := by omega
    have h12 : n ≠ 12 := by omega
    simp [h11, h12, BitVec.getLsbD_of_ge _ n (show 64 ≤ n by omega)]

@[simp] theorem getMpp_setMpp (m : Word) (code : BitVec 2) : getMpp (setMpp m code) = code := by
  ext i hi
  simp only [getMpp, BitVec.getElem_extractLsb', getLsbD_setMpp]
  have : i = 0 ∨ i = 1 := by omega
  rcases this with rfl | rfl <;> simp

/-- MPP is bits 12:11. -/
theorem getMpp_congr {a b : Word} (h11 : a.getLsbD 11 = b.getLsbD 11) (h12 : a.getLsbD 12 = b.getLsbD 12) :
    getMpp a = getMpp b := by
  ext i hi
  simp only [getMpp, BitVec.getElem_extractLsb']
  have : i = 0 ∨ i = 1 := by omega
  rcases this with rfl | rfl <;> simpa

/-- A value stays within a mask exactly when no bit outside the mask is set. -/
theorem within_iff (v mask : Word) :
    v &&& ~~~mask = 0#64 ↔ ∀ n, v.getLsbD n = true → mask.getLsbD n = true := by
  constructor
  · intro h n hv
    have hn : n < 64 := BitVec.lt_of_getLsbD hv
    have := congrArg (fun w => BitVec.getLsbD w n) h
    simpa [hv, hn] using this
  · intro h
    ext n hn
    have := h n
    simp only [BitVec.getElem_and, BitVec.getElem_not, BitVec.getElem_zero]
    rw [← BitVec.getLsbD_eq_getElem, ← BitVec.getLsbD_eq_getElem]
    cases hv : v.getLsbD n <;> simp_all

/-- A merge through a smaller mask stays within the larger one. -/
theorem mergeBits_within {old v mask big : Word} (hold : old &&& ~~~big = 0#64)
    (hmask : ∀ n, mask.getLsbD n = true → big.getLsbD n = true) : mergeBits old v mask &&& ~~~big = 0#64 := by
  rw [within_iff] at hold ⊢
  intro n hn
  rw [getLsbD_mergeBits] at hn
  cases hm : mask.getLsbD n with
  | true => exact hmask n hm
  | false => exact hold n (by simpa [hm] using hn)

/-- The bits of an XLEN-bit value. -/
theorem getLsbD_truncXlen (c : Config) (v : Word) (n : Nat) :
    (truncXlen c v).getLsbD n = (decide (n < c.xlen.bits) && v.getLsbD n) := by
  by_cases hn : n < 64
  · cases hx : c.xlen
    · have hmask : ∀ k : Fin 64, (0xFFFFFFFF#64).getLsbD k.val = decide (k.val < 32) := by decide
      rw [truncXlen, hx, BitVec.getLsbD_and, hmask ⟨n, hn⟩, Bool.and_comm]
      rfl
    · simp [truncXlen, hx, Xlen.bits, hn]
  · simp [BitVec.getLsbD_of_ge _ n (show 64 ≤ n by omega)]

@[simp] theorem truncXlen_idem (c : Config) (v : Word) : truncXlen c (truncXlen c v) = truncXlen c v := by
  unfold truncXlen; cases c.xlen
  · simp only [BitVec.and_assoc, BitVec.and_self]
  · rfl

@[simp] theorem tvecLegal_idem (c : Config) (v : Word) : tvecLegal c (tvecLegal c v) = tvecLegal c v := by
  unfold tvecLegal truncXlen; cases c.xlen
  · ext n; simp only [BitVec.getElem_and]; grind
  · simp only [BitVec.and_assoc, BitVec.and_self]

@[simp] theorem epcLegal_idem (c : Config) (v : Word) : epcLegal c (epcLegal c v) = epcLegal c v := by
  unfold epcLegal truncXlen; cases c.xlen
  · ext n; simp only [BitVec.getElem_and]; grind
  · simp only [BitVec.and_assoc, BitVec.and_self]

@[simp] theorem pmpaddrLegal_idem (c : Config) (v : Word) : pmpaddrLegal c (pmpaddrLegal c v) = pmpaddrLegal c v := by
  unfold pmpaddrLegal; cases c.xlen <;> simp only [BitVec.and_assoc, BitVec.and_self]

theorem hasMode_of_modeOfCode {c : Config} {code : BitVec 2} {y : Priv} (h : modeOfCode c code = some y) :
    hasMode c y = true := by
  unfold modeOfCode at h
  split_ifs at h <;> simp_all [hasMode] <;> (subst h; simp_all)

/-- The code of an implemented mode names it. -/
theorem modeOfCode_privCode {c : Config} {y : Priv} (h : hasMode c y = true) : modeOfCode c (privCode y) = some y := by
  cases y <;> simp_all [hasMode, modeOfCode, privCode]

end Sys2Proof.Machine
end

