-- ==== Sys2Proof/Laws/State.lean ====
section
/-! SUPPORT. One lemma per field per named update: what the shared operations leave alone. With them no later proof unfolds a
record update. -/

namespace Sys2Proof.Machine

/-! ### `setX` -/

@[simp] theorem setX_cfg (s : State) (r : Reg) (v : Word) : (setX s r v).cfg = s.cfg := by unfold setX; split <;> rfl
@[simp] theorem setX_pc (s : State) (r : Reg) (v : Word) : (setX s r v).pc = s.pc := by unfold setX; split <;> rfl
@[simp] theorem setX_priv (s : State) (r : Reg) (v : Word) : (setX s r v).priv = s.priv := by unfold setX; split <;> rfl
@[simp] theorem setX_mstatus (s : State) (r : Reg) (v : Word) : (setX s r v).mstatus = s.mstatus := by unfold setX; split <;> rfl
@[simp] theorem setX_mtvec (s : State) (r : Reg) (v : Word) : (setX s r v).mtvec = s.mtvec := by unfold setX; split <;> rfl
@[simp] theorem setX_medeleg (s : State) (r : Reg) (v : Word) : (setX s r v).medeleg = s.medeleg := by unfold setX; split <;> rfl
@[simp] theorem setX_mideleg (s : State) (r : Reg) (v : Word) : (setX s r v).mideleg = s.mideleg := by unfold setX; split <;> rfl
@[simp] theorem setX_mie (s : State) (r : Reg) (v : Word) : (setX s r v).mie = s.mie := by unfold setX; split <;> rfl
@[simp] theorem setX_mipSw (s : State) (r : Reg) (v : Word) : (setX s r v).mipSw = s.mipSw := by unfold setX; split <;> rfl
@[simp] theorem setX_mnmivec (s : State) (r : Reg) (v : Word) : (setX s r v).mnmivec = s.mnmivec := by unfold setX; split <;> rfl
@[simp] theorem setX_mscratch (s : State) (r : Reg) (v : Word) : (setX s r v).mscratch = s.mscratch := by unfold setX; split <;> rfl
@[simp] theorem setX_mepc (s : State) (r : Reg) (v : Word) : (setX s r v).mepc = s.mepc := by unfold setX; split <;> rfl
@[simp] theorem setX_mcause (s : State) (r : Reg) (v : Word) : (setX s r v).mcause = s.mcause := by unfold setX; split <;> rfl
@[simp] theorem setX_mtval (s : State) (r : Reg) (v : Word) : (setX s r v).mtval = s.mtval := by unfold setX; split <;> rfl
@[simp] theorem setX_mcounteren (s : State) (r : Reg) (v : Word) : (setX s r v).mcounteren = s.mcounteren := by unfold setX; split <;> rfl
@[simp] theorem setX_mcycle (s : State) (r : Reg) (v : Word) : (setX s r v).mcycle = s.mcycle := by unfold setX; split <;> rfl
@[simp] theorem setX_minstret (s : State) (r : Reg) (v : Word) : (setX s r v).minstret = s.minstret := by unfold setX; split <;> rfl
@[simp] theorem setX_sedeleg (s : State) (r : Reg) (v : Word) : (setX s r v).sedeleg = s.sedeleg := by unfold setX; split <;> rfl
@[simp] theorem setX_sideleg (s : State) (r : Reg) (v : Word) : (setX s r v).sideleg = s.sideleg := by unfold setX; split <;> rfl
@[simp] theorem setX_stvec (s : State) (r : Reg) (v : Word) : (setX s r v).stvec = s.stvec := by unfold setX; split <;> rfl
@[simp] theorem setX_sscratch (s : State) (r : Reg) (v : Word) : (setX s r v).sscratch = s.sscratch := by unfold setX; split <;> rfl
@[simp] theorem setX_sepc (s : State) (r : Reg) (v : Word) : (setX s r v).sepc = s.sepc := by unfold setX; split <;> rfl
@[simp] theorem setX_scause (s : State) (r : Reg) (v : Word) : (setX s r v).scause = s.scause := by unfold setX; split <;> rfl
@[simp] theorem setX_stval (s : State) (r : Reg) (v : Word) : (setX s r v).stval = s.stval := by unfold setX; split <;> rfl
@[simp] theorem setX_scounteren (s : State) (r : Reg) (v : Word) : (setX s r v).scounteren = s.scounteren := by unfold setX; split <;> rfl
@[simp] theorem setX_satp (s : State) (r : Reg) (v : Word) : (setX s r v).satp = s.satp := by unfold setX; split <;> rfl
@[simp] theorem setX_utvec (s : State) (r : Reg) (v : Word) : (setX s r v).utvec = s.utvec := by unfold setX; split <;> rfl
@[simp] theorem setX_uscratch (s : State) (r : Reg) (v : Word) : (setX s r v).uscratch = s.uscratch := by unfold setX; split <;> rfl
@[simp] theorem setX_uepc (s : State) (r : Reg) (v : Word) : (setX s r v).uepc = s.uepc := by unfold setX; split <;> rfl
@[simp] theorem setX_ucause (s : State) (r : Reg) (v : Word) : (setX s r v).ucause = s.ucause := by unfold setX; split <;> rfl
@[simp] theorem setX_utval (s : State) (r : Reg) (v : Word) : (setX s r v).utval = s.utval := by unfold setX; split <;> rfl
@[simp] theorem setX_pmpcfg (s : State) (r : Reg) (v : Word) : (setX s r v).pmpcfg = s.pmpcfg := by unfold setX; split <;> rfl
@[simp] theorem setX_pmpaddr (s : State) (r : Reg) (v : Word) : (setX s r v).pmpaddr = s.pmpaddr := by unfold setX; split <;> rfl
@[simp] theorem setX_mem (s : State) (r : Reg) (v : Word) : (setX s r v).mem = s.mem := by unfold setX; split <;> rfl
@[simp] theorem setX_env (s : State) (r : Reg) (v : Word) : (setX s r v).env = s.env := by unfold setX; split <;> rfl
@[simp] theorem setX_scheduled (s : State) (r : Reg) (v : Word) : (setX s r v).scheduled = s.scheduled := by unfold setX; split <;> rfl
@[simp] theorem setX_tick (s : State) (r : Reg) (v : Word) : (setX s r v).tick = s.tick := by unfold setX; split <;> rfl

/-! ### `advancePc` -/

@[simp] theorem advancePc_cfg (s : State) : (advancePc s).cfg = s.cfg := rfl
@[simp] theorem advancePc_x (s : State) : (advancePc s).x = s.x := rfl
@[simp] theorem advancePc_priv (s : State) : (advancePc s).priv = s.priv := rfl
@[simp] theorem advancePc_mstatus (s : State) : (advancePc s).mstatus = s.mstatus := rfl
@[simp] theorem advancePc_mtvec (s : State) : (advancePc s).mtvec = s.mtvec := rfl
@[simp] theorem advancePc_medeleg (s : State) : (advancePc s).medeleg = s.medeleg := rfl
@[simp] theorem advancePc_mideleg (s : State) : (advancePc s).mideleg = s.mideleg := rfl
@[simp] theorem advancePc_mie (s : State) : (advancePc s).mie = s.mie := rfl
@[simp] theorem advancePc_mipSw (s : State) : (advancePc s).mipSw = s.mipSw := rfl
@[simp] theorem advancePc_mnmivec (s : State) : (advancePc s).mnmivec = s.mnmivec := rfl
@[simp] theorem advancePc_mscratch (s : State) : (advancePc s).mscratch = s.mscratch := rfl
@[simp] theorem advancePc_mepc (s : State) : (advancePc s).mepc = s.mepc := rfl
@[simp] theorem advancePc_mcause (s : State) : (advancePc s).mcause = s.mcause := rfl
@[simp] theorem advancePc_mtval (s : State) : (advancePc s).mtval = s.mtval := rfl
@[simp] theorem advancePc_mcounteren (s : State) : (advancePc s).mcounteren = s.mcounteren := rfl
@[simp] theorem advancePc_mcycle (s : State) : (advancePc s).mcycle = s.mcycle := rfl
@[simp] theorem advancePc_minstret (s : State) : (advancePc s).minstret = s.minstret := rfl
@[simp] theorem advancePc_sedeleg (s : State) : (advancePc s).sedeleg = s.sedeleg := rfl
@[simp] theorem advancePc_sideleg (s : State) : (advancePc s).sideleg = s.sideleg := rfl
@[simp] theorem advancePc_stvec (s : State) : (advancePc s).stvec = s.stvec := rfl
@[simp] theorem advancePc_sscratch (s : State) : (advancePc s).sscratch = s.sscratch := rfl
@[simp] theorem advancePc_sepc (s : State) : (advancePc s).sepc = s.sepc := rfl
@[simp] theorem advancePc_scause (s : State) : (advancePc s).scause = s.scause := rfl
@[simp] theorem advancePc_stval (s : State) : (advancePc s).stval = s.stval := rfl
@[simp] theorem advancePc_scounteren (s : State) : (advancePc s).scounteren = s.scounteren := rfl
@[simp] theorem advancePc_satp (s : State) : (advancePc s).satp = s.satp := rfl
@[simp] theorem advancePc_utvec (s : State) : (advancePc s).utvec = s.utvec := rfl
@[simp] theorem advancePc_uscratch (s : State) : (advancePc s).uscratch = s.uscratch := rfl
@[simp] theorem advancePc_uepc (s : State) : (advancePc s).uepc = s.uepc := rfl
@[simp] theorem advancePc_ucause (s : State) : (advancePc s).ucause = s.ucause := rfl
@[simp] theorem advancePc_utval (s : State) : (advancePc s).utval = s.utval := rfl
@[simp] theorem advancePc_pmpcfg (s : State) : (advancePc s).pmpcfg = s.pmpcfg := rfl
@[simp] theorem advancePc_pmpaddr (s : State) : (advancePc s).pmpaddr = s.pmpaddr := rfl
@[simp] theorem advancePc_mem (s : State) : (advancePc s).mem = s.mem := rfl
@[simp] theorem advancePc_env (s : State) : (advancePc s).env = s.env := rfl
@[simp] theorem advancePc_scheduled (s : State) : (advancePc s).scheduled = s.scheduled := rfl
@[simp] theorem advancePc_tick (s : State) : (advancePc s).tick = s.tick := rfl

/-! ### `retire` -/

@[simp] theorem retire_cfg (s : State) : (retire s).cfg = s.cfg := rfl
@[simp] theorem retire_x (s : State) : (retire s).x = s.x := rfl
@[simp] theorem retire_pc (s : State) : (retire s).pc = s.pc := rfl
@[simp] theorem retire_priv (s : State) : (retire s).priv = s.priv := rfl
@[simp] theorem retire_mstatus (s : State) : (retire s).mstatus = s.mstatus := rfl
@[simp] theorem retire_mtvec (s : State) : (retire s).mtvec = s.mtvec := rfl
@[simp] theorem retire_medeleg (s : State) : (retire s).medeleg = s.medeleg := rfl
@[simp] theorem retire_mideleg (s : State) : (retire s).mideleg = s.mideleg := rfl
@[simp] theorem retire_mie (s : State) : (retire s).mie = s.mie := rfl
@[simp] theorem retire_mipSw (s : State) : (retire s).mipSw = s.mipSw := rfl
@[simp] theorem retire_mnmivec (s : State) : (retire s).mnmivec = s.mnmivec := rfl
@[simp] theorem retire_mscratch (s : State) : (retire s).mscratch = s.mscratch := rfl
@[simp] theorem retire_mepc (s : State) : (retire s).mepc = s.mepc := rfl
@[simp] theorem retire_mcause (s : State) : (retire s).mcause = s.mcause := rfl
@[simp] theorem retire_mtval (s : State) : (retire s).mtval = s.mtval := rfl
@[simp] theorem retire_mcounteren (s : State) : (retire s).mcounteren = s.mcounteren := rfl
@[simp] theorem retire_mcycle (s : State) : (retire s).mcycle = s.mcycle := rfl
@[simp] theorem retire_sedeleg (s : State) : (retire s).sedeleg = s.sedeleg := rfl
@[simp] theorem retire_sideleg (s : State) : (retire s).sideleg = s.sideleg := rfl
@[simp] theorem retire_stvec (s : State) : (retire s).stvec = s.stvec := rfl
@[simp] theorem retire_sscratch (s : State) : (retire s).sscratch = s.sscratch := rfl
@[simp] theorem retire_sepc (s : State) : (retire s).sepc = s.sepc := rfl
@[simp] theorem retire_scause (s : State) : (retire s).scause = s.scause := rfl
@[simp] theorem retire_stval (s : State) : (retire s).stval = s.stval := rfl
@[simp] theorem retire_scounteren (s : State) : (retire s).scounteren = s.scounteren := rfl
@[simp] theorem retire_satp (s : State) : (retire s).satp = s.satp := rfl
@[simp] theorem retire_utvec (s : State) : (retire s).utvec = s.utvec := rfl
@[simp] theorem retire_uscratch (s : State) : (retire s).uscratch = s.uscratch := rfl
@[simp] theorem retire_uepc (s : State) : (retire s).uepc = s.uepc := rfl
@[simp] theorem retire_ucause (s : State) : (retire s).ucause = s.ucause := rfl
@[simp] theorem retire_utval (s : State) : (retire s).utval = s.utval := rfl
@[simp] theorem retire_pmpcfg (s : State) : (retire s).pmpcfg = s.pmpcfg := rfl
@[simp] theorem retire_pmpaddr (s : State) : (retire s).pmpaddr = s.pmpaddr := rfl
@[simp] theorem retire_mem (s : State) : (retire s).mem = s.mem := rfl
@[simp] theorem retire_env (s : State) : (retire s).env = s.env := rfl
@[simp] theorem retire_scheduled (s : State) : (retire s).scheduled = s.scheduled := rfl
@[simp] theorem retire_tick (s : State) : (retire s).tick = s.tick := rfl

/-! ### `sampleInputs` -/

@[simp] theorem sampleInputs_cfg (s : State) : (sampleInputs s).cfg = s.cfg := rfl
@[simp] theorem sampleInputs_x (s : State) : (sampleInputs s).x = s.x := rfl
@[simp] theorem sampleInputs_pc (s : State) : (sampleInputs s).pc = s.pc := rfl
@[simp] theorem sampleInputs_priv (s : State) : (sampleInputs s).priv = s.priv := rfl
@[simp] theorem sampleInputs_mstatus (s : State) : (sampleInputs s).mstatus = s.mstatus := rfl
@[simp] theorem sampleInputs_mtvec (s : State) : (sampleInputs s).mtvec = s.mtvec := rfl
@[simp] theorem sampleInputs_medeleg (s : State) : (sampleInputs s).medeleg = s.medeleg := rfl
@[simp] theorem sampleInputs_mideleg (s : State) : (sampleInputs s).mideleg = s.mideleg := rfl
@[simp] theorem sampleInputs_mie (s : State) : (sampleInputs s).mie = s.mie := rfl
@[simp] theorem sampleInputs_mipSw (s : State) : (sampleInputs s).mipSw = s.mipSw := rfl
@[simp] theorem sampleInputs_mnmivec (s : State) : (sampleInputs s).mnmivec = s.mnmivec := rfl
@[simp] theorem sampleInputs_mscratch (s : State) : (sampleInputs s).mscratch = s.mscratch := rfl
@[simp] theorem sampleInputs_mepc (s : State) : (sampleInputs s).mepc = s.mepc := rfl
@[simp] theorem sampleInputs_mcause (s : State) : (sampleInputs s).mcause = s.mcause := rfl
@[simp] theorem sampleInputs_mtval (s : State) : (sampleInputs s).mtval = s.mtval := rfl
@[simp] theorem sampleInputs_mcounteren (s : State) : (sampleInputs s).mcounteren = s.mcounteren := rfl
@[simp] theorem sampleInputs_minstret (s : State) : (sampleInputs s).minstret = s.minstret := rfl
@[simp] theorem sampleInputs_sedeleg (s : State) : (sampleInputs s).sedeleg = s.sedeleg := rfl
@[simp] theorem sampleInputs_sideleg (s : State) : (sampleInputs s).sideleg = s.sideleg := rfl
@[simp] theorem sampleInputs_stvec (s : State) : (sampleInputs s).stvec = s.stvec := rfl
@[simp] theorem sampleInputs_sscratch (s : State) : (sampleInputs s).sscratch = s.sscratch := rfl
@[simp] theorem sampleInputs_sepc (s : State) : (sampleInputs s).sepc = s.sepc := rfl
@[simp] theorem sampleInputs_scause (s : State) : (sampleInputs s).scause = s.scause := rfl
@[simp] theorem sampleInputs_stval (s : State) : (sampleInputs s).stval = s.stval := rfl
@[simp] theorem sampleInputs_scounteren (s : State) : (sampleInputs s).scounteren = s.scounteren := rfl
@[simp] theorem sampleInputs_satp (s : State) : (sampleInputs s).satp = s.satp := rfl
@[simp] theorem sampleInputs_utvec (s : State) : (sampleInputs s).utvec = s.utvec := rfl
@[simp] theorem sampleInputs_uscratch (s : State) : (sampleInputs s).uscratch = s.uscratch := rfl
@[simp] theorem sampleInputs_uepc (s : State) : (sampleInputs s).uepc = s.uepc := rfl
@[simp] theorem sampleInputs_ucause (s : State) : (sampleInputs s).ucause = s.ucause := rfl
@[simp] theorem sampleInputs_utval (s : State) : (sampleInputs s).utval = s.utval := rfl
@[simp] theorem sampleInputs_pmpcfg (s : State) : (sampleInputs s).pmpcfg = s.pmpcfg := rfl
@[simp] theorem sampleInputs_pmpaddr (s : State) : (sampleInputs s).pmpaddr = s.pmpaddr := rfl
@[simp] theorem sampleInputs_mem (s : State) : (sampleInputs s).mem = s.mem := rfl
@[simp] theorem sampleInputs_env (s : State) : (sampleInputs s).env = s.env := rfl
@[simp] theorem sampleInputs_scheduled (s : State) : (sampleInputs s).scheduled = s.scheduled := rfl
@[simp] theorem sampleInputs_tick (s : State) : (sampleInputs s).tick = s.tick := rfl

/-! ### `endStep` -/

@[simp] theorem endStep_cfg (s : State) : (endStep s).cfg = s.cfg := by unfold endStep; split <;> rfl
@[simp] theorem endStep_x (s : State) : (endStep s).x = s.x := by unfold endStep; split <;> rfl
@[simp] theorem endStep_pc (s : State) : (endStep s).pc = s.pc := by unfold endStep; split <;> rfl
@[simp] theorem endStep_priv (s : State) : (endStep s).priv = s.priv := by unfold endStep; split <;> rfl
@[simp] theorem endStep_mstatus (s : State) : (endStep s).mstatus = s.mstatus := by unfold endStep; split <;> rfl
@[simp] theorem endStep_mtvec (s : State) : (endStep s).mtvec = s.mtvec := by unfold endStep; split <;> rfl
@[simp] theorem endStep_medeleg (s : State) : (endStep s).medeleg = s.medeleg := by unfold endStep; split <;> rfl
@[simp] theorem endStep_mideleg (s : State) : (endStep s).mideleg = s.mideleg := by unfold endStep; split <;> rfl
@[simp] theorem endStep_mie (s : State) : (endStep s).mie = s.mie := by unfold endStep; split <;> rfl
@[simp] theorem endStep_mipSw (s : State) : (endStep s).mipSw = s.mipSw := by unfold endStep; split <;> rfl
@[simp] theorem endStep_mnmivec (s : State) : (endStep s).mnmivec = s.mnmivec := by unfold endStep; split <;> rfl
@[simp] theorem endStep_mscratch (s : State) : (endStep s).mscratch = s.mscratch := by unfold endStep; split <;> rfl
@[simp] theorem endStep_mepc (s : State) : (endStep s).mepc = s.mepc := by unfold endStep; split <;> rfl
@[simp] theorem endStep_mcause (s : State) : (endStep s).mcause = s.mcause := by unfold endStep; split <;> rfl
@[simp] theorem endStep_mtval (s : State) : (endStep s).mtval = s.mtval := by unfold endStep; split <;> rfl
@[simp] theorem endStep_mcounteren (s : State) : (endStep s).mcounteren = s.mcounteren := by unfold endStep; split <;> rfl
@[simp] theorem endStep_mcycle (s : State) : (endStep s).mcycle = s.mcycle := by unfold endStep; split <;> rfl
@[simp] theorem endStep_minstret (s : State) : (endStep s).minstret = s.minstret := by unfold endStep; split <;> rfl
@[simp] theorem endStep_sedeleg (s : State) : (endStep s).sedeleg = s.sedeleg := by unfold endStep; split <;> rfl
@[simp] theorem endStep_sideleg (s : State) : (endStep s).sideleg = s.sideleg := by unfold endStep; split <;> rfl
@[simp] theorem endStep_stvec (s : State) : (endStep s).stvec = s.stvec := by unfold endStep; split <;> rfl
@[simp] theorem endStep_sscratch (s : State) : (endStep s).sscratch = s.sscratch := by unfold endStep; split <;> rfl
@[simp] theorem endStep_sepc (s : State) : (endStep s).sepc = s.sepc := by unfold endStep; split <;> rfl
@[simp] theorem endStep_scause (s : State) : (endStep s).scause = s.scause := by unfold endStep; split <;> rfl
@[simp] theorem endStep_stval (s : State) : (endStep s).stval = s.stval := by unfold endStep; split <;> rfl
@[simp] theorem endStep_scounteren (s : State) : (endStep s).scounteren = s.scounteren := by unfold endStep; split <;> rfl
@[simp] theorem endStep_satp (s : State) : (endStep s).satp = s.satp := by unfold endStep; split <;> rfl
@[simp] theorem endStep_utvec (s : State) : (endStep s).utvec = s.utvec := by unfold endStep; split <;> rfl
@[simp] theorem endStep_uscratch (s : State) : (endStep s).uscratch = s.uscratch := by unfold endStep; split <;> rfl
@[simp] theorem endStep_uepc (s : State) : (endStep s).uepc = s.uepc := by unfold endStep; split <;> rfl
@[simp] theorem endStep_ucause (s : State) : (endStep s).ucause = s.ucause := by unfold endStep; split <;> rfl
@[simp] theorem endStep_utval (s : State) : (endStep s).utval = s.utval := by unfold endStep; split <;> rfl
@[simp] theorem endStep_pmpcfg (s : State) : (endStep s).pmpcfg = s.pmpcfg := by unfold endStep; split <;> rfl
@[simp] theorem endStep_pmpaddr (s : State) : (endStep s).pmpaddr = s.pmpaddr := by unfold endStep; split <;> rfl
@[simp] theorem endStep_mem (s : State) : (endStep s).mem = s.mem := by unfold endStep; split <;> rfl

/-! ### `returnFromTrap` -/

@[simp] theorem returnFromTrap_cfg (s : State) (p y : Priv) (e : Word) : (returnFromTrap s p y e).cfg = s.cfg := rfl
@[simp] theorem returnFromTrap_x (s : State) (p y : Priv) (e : Word) : (returnFromTrap s p y e).x = s.x := rfl
@[simp] theorem returnFromTrap_mtvec (s : State) (p y : Priv) (e : Word) : (returnFromTrap s p y e).mtvec = s.mtvec := rfl
@[simp] theorem returnFromTrap_medeleg (s : State) (p y : Priv) (e : Word) : (returnFromTrap s p y e).medeleg = s.medeleg := rfl
@[simp] theorem returnFromTrap_mideleg (s : State) (p y : Priv) (e : Word) : (returnFromTrap s p y e).mideleg = s.mideleg := rfl
@[simp] theorem returnFromTrap_mie (s : State) (p y : Priv) (e : Word) : (returnFromTrap s p y e).mie = s.mie := rfl
@[simp] theorem returnFromTrap_mipSw (s : State) (p y : Priv) (e : Word) : (returnFromTrap s p y e).mipSw = s.mipSw := rfl
@[simp] theorem returnFromTrap_mnmivec (s : State) (p y : Priv) (e : Word) : (returnFromTrap s p y e).mnmivec = s.mnmivec := rfl
@[simp] theorem returnFromTrap_mscratch (s : State) (p y : Priv) (e : Word) : (returnFromTrap s p y e).mscratch = s.mscratch := rfl
@[simp] theorem returnFromTrap_mepc (s : State) (p y : Priv) (e : Word) : (returnFromTrap s p y e).mepc = s.mepc := rfl
@[simp] theorem returnFromTrap_mcause (s : State) (p y : Priv) (e : Word) : (returnFromTrap s p y e).mcause = s.mcause := rfl
@[simp] theorem returnFromTrap_mtval (s : State) (p y : Priv) (e : Word) : (returnFromTrap s p y e).mtval = s.mtval := rfl
@[simp] theorem returnFromTrap_mcounteren (s : State) (p y : Priv) (e : Word) : (returnFromTrap s p y e).mcounteren = s.mcounteren := rfl
@[simp] theorem returnFromTrap_mcycle (s : State) (p y : Priv) (e : Word) : (returnFromTrap s p y e).mcycle = s.mcycle := rfl
@[simp] theorem returnFromTrap_sedeleg (s : State) (p y : Priv) (e : Word) : (returnFromTrap s p y e).sedeleg = s.sedeleg := rfl
@[simp] theorem returnFromTrap_sideleg (s : State) (p y : Priv) (e : Word) : (returnFromTrap s p y e).sideleg = s.sideleg := rfl
@[simp] theorem returnFromTrap_stvec (s : State) (p y : Priv) (e : Word) : (returnFromTrap s p y e).stvec = s.stvec := rfl
@[simp] theorem returnFromTrap_sscratch (s : State) (p y : Priv) (e : Word) : (returnFromTrap s p y e).sscratch = s.sscratch := rfl
@[simp] theorem returnFromTrap_sepc (s : State) (p y : Priv) (e : Word) : (returnFromTrap s p y e).sepc = s.sepc := rfl
@[simp] theorem returnFromTrap_scause (s : State) (p y : Priv) (e : Word) : (returnFromTrap s p y e).scause = s.scause := rfl
@[simp] theorem returnFromTrap_stval (s : State) (p y : Priv) (e : Word) : (returnFromTrap s p y e).stval = s.stval := rfl
@[simp] theorem returnFromTrap_scounteren (s : State) (p y : Priv) (e : Word) : (returnFromTrap s p y e).scounteren = s.scounteren := rfl
@[simp] theorem returnFromTrap_satp (s : State) (p y : Priv) (e : Word) : (returnFromTrap s p y e).satp = s.satp := rfl
@[simp] theorem returnFromTrap_utvec (s : State) (p y : Priv) (e : Word) : (returnFromTrap s p y e).utvec = s.utvec := rfl
@[simp] theorem returnFromTrap_uscratch (s : State) (p y : Priv) (e : Word) : (returnFromTrap s p y e).uscratch = s.uscratch := rfl
@[simp] theorem returnFromTrap_uepc (s : State) (p y : Priv) (e : Word) : (returnFromTrap s p y e).uepc = s.uepc := rfl
@[simp] theorem returnFromTrap_ucause (s : State) (p y : Priv) (e : Word) : (returnFromTrap s p y e).ucause = s.ucause := rfl
@[simp] theorem returnFromTrap_utval (s : State) (p y : Priv) (e : Word) : (returnFromTrap s p y e).utval = s.utval := rfl
@[simp] theorem returnFromTrap_pmpcfg (s : State) (p y : Priv) (e : Word) : (returnFromTrap s p y e).pmpcfg = s.pmpcfg := rfl
@[simp] theorem returnFromTrap_pmpaddr (s : State) (p y : Priv) (e : Word) : (returnFromTrap s p y e).pmpaddr = s.pmpaddr := rfl
@[simp] theorem returnFromTrap_mem (s : State) (p y : Priv) (e : Word) : (returnFromTrap s p y e).mem = s.mem := rfl
@[simp] theorem returnFromTrap_env (s : State) (p y : Priv) (e : Word) : (returnFromTrap s p y e).env = s.env := rfl
@[simp] theorem returnFromTrap_scheduled (s : State) (p y : Priv) (e : Word) : (returnFromTrap s p y e).scheduled = s.scheduled := rfl
@[simp] theorem returnFromTrap_tick (s : State) (p y : Priv) (e : Word) : (returnFromTrap s p y e).tick = s.tick := rfl

/-! ### `completeCsr` -/

@[simp] theorem completeCsr_cfg (s : State) (w : Option Csr) : (completeCsr s w).cfg = s.cfg := by unfold completeCsr; repeat' (first | rfl | split)
@[simp] theorem completeCsr_x (s : State) (w : Option Csr) : (completeCsr s w).x = s.x := by unfold completeCsr; repeat' (first | rfl | split)
@[simp] theorem completeCsr_priv (s : State) (w : Option Csr) : (completeCsr s w).priv = s.priv := by unfold completeCsr; repeat' (first | rfl | split)
@[simp] theorem completeCsr_mstatus (s : State) (w : Option Csr) : (completeCsr s w).mstatus = s.mstatus := by unfold completeCsr; repeat' (first | rfl | split)
@[simp] theorem completeCsr_mtvec (s : State) (w : Option Csr) : (completeCsr s w).mtvec = s.mtvec := by unfold completeCsr; repeat' (first | rfl | split)
@[simp] theorem completeCsr_medeleg (s : State) (w : Option Csr) : (completeCsr s w).medeleg = s.medeleg := by unfold completeCsr; repeat' (first | rfl | split)
@[simp] theorem completeCsr_mideleg (s : State) (w : Option Csr) : (completeCsr s w).mideleg = s.mideleg := by unfold completeCsr; repeat' (first | rfl | split)
@[simp] theorem completeCsr_mie (s : State) (w : Option Csr) : (completeCsr s w).mie = s.mie := by unfold completeCsr; repeat' (first | rfl | split)
@[simp] theorem completeCsr_mipSw (s : State) (w : Option Csr) : (completeCsr s w).mipSw = s.mipSw := by unfold completeCsr; repeat' (first | rfl | split)
@[simp] theorem completeCsr_mnmivec (s : State) (w : Option Csr) : (completeCsr s w).mnmivec = s.mnmivec := by unfold completeCsr; repeat' (first | rfl | split)
@[simp] theorem completeCsr_mscratch (s : State) (w : Option Csr) : (completeCsr s w).mscratch = s.mscratch := by unfold completeCsr; repeat' (first | rfl | split)
@[simp] theorem completeCsr_mepc (s : State) (w : Option Csr) : (completeCsr s w).mepc = s.mepc := by unfold completeCsr; repeat' (first | rfl | split)
@[simp] theorem completeCsr_mcause (s : State) (w : Option Csr) : (completeCsr s w).mcause = s.mcause := by unfold completeCsr; repeat' (first | rfl | split)
@[simp] theorem completeCsr_mtval (s : State) (w : Option Csr) : (completeCsr s w).mtval = s.mtval := by unfold completeCsr; repeat' (first | rfl | split)
@[simp] theorem completeCsr_mcounteren (s : State) (w : Option Csr) : (completeCsr s w).mcounteren = s.mcounteren := by unfold completeCsr; repeat' (first | rfl | split)
@[simp] theorem completeCsr_mcycle (s : State) (w : Option Csr) : (completeCsr s w).mcycle = s.mcycle := by unfold completeCsr; repeat' (first | rfl | split)
@[simp] theorem completeCsr_sedeleg (s : State) (w : Option Csr) : (completeCsr s w).sedeleg = s.sedeleg := by unfold completeCsr; repeat' (first | rfl | split)
@[simp] theorem completeCsr_sideleg (s : State) (w : Option Csr) : (completeCsr s w).sideleg = s.sideleg := by unfold completeCsr; repeat' (first | rfl | split)
@[simp] theorem completeCsr_stvec (s : State) (w : Option Csr) : (completeCsr s w).stvec = s.stvec := by unfold completeCsr; repeat' (first | rfl | split)
@[simp] theorem completeCsr_sscratch (s : State) (w : Option Csr) : (completeCsr s w).sscratch = s.sscratch := by unfold completeCsr; repeat' (first | rfl | split)
@[simp] theorem completeCsr_sepc (s : State) (w : Option Csr) : (completeCsr s w).sepc = s.sepc := by unfold completeCsr; repeat' (first | rfl | split)
@[simp] theorem completeCsr_scause (s : State) (w : Option Csr) : (completeCsr s w).scause = s.scause := by unfold completeCsr; repeat' (first | rfl | split)
@[simp] theorem completeCsr_stval (s : State) (w : Option Csr) : (completeCsr s w).stval = s.stval := by unfold completeCsr; repeat' (first | rfl | split)
@[simp] theorem completeCsr_scounteren (s : State) (w : Option Csr) : (completeCsr s w).scounteren = s.scounteren := by unfold completeCsr; repeat' (first | rfl | split)
@[simp] theorem completeCsr_satp (s : State) (w : Option Csr) : (completeCsr s w).satp = s.satp := by unfold completeCsr; repeat' (first | rfl | split)
@[simp] theorem completeCsr_utvec (s : State) (w : Option Csr) : (completeCsr s w).utvec = s.utvec := by unfold completeCsr; repeat' (first | rfl | split)
@[simp] theorem completeCsr_uscratch (s : State) (w : Option Csr) : (completeCsr s w).uscratch = s.uscratch := by unfold completeCsr; repeat' (first | rfl | split)
@[simp] theorem completeCsr_uepc (s : State) (w : Option Csr) : (completeCsr s w).uepc = s.uepc := by unfold completeCsr; repeat' (first | rfl | split)
@[simp] theorem completeCsr_ucause (s : State) (w : Option Csr) : (completeCsr s w).ucause = s.ucause := by unfold completeCsr; repeat' (first | rfl | split)
@[simp] theorem completeCsr_utval (s : State) (w : Option Csr) : (completeCsr s w).utval = s.utval := by unfold completeCsr; repeat' (first | rfl | split)
@[simp] theorem completeCsr_pmpcfg (s : State) (w : Option Csr) : (completeCsr s w).pmpcfg = s.pmpcfg := by unfold completeCsr; repeat' (first | rfl | split)
@[simp] theorem completeCsr_pmpaddr (s : State) (w : Option Csr) : (completeCsr s w).pmpaddr = s.pmpaddr := by unfold completeCsr; repeat' (first | rfl | split)
@[simp] theorem completeCsr_mem (s : State) (w : Option Csr) : (completeCsr s w).mem = s.mem := by unfold completeCsr; repeat' (first | rfl | split)
@[simp] theorem completeCsr_env (s : State) (w : Option Csr) : (completeCsr s w).env = s.env := by unfold completeCsr; repeat' (first | rfl | split)
@[simp] theorem completeCsr_scheduled (s : State) (w : Option Csr) : (completeCsr s w).scheduled = s.scheduled := by unfold completeCsr; repeat' (first | rfl | split)
@[simp] theorem completeCsr_tick (s : State) (w : Option Csr) : (completeCsr s w).tick = s.tick := by unfold completeCsr; repeat' (first | rfl | split)

/-! ### `takeTrap` -/

@[simp] theorem takeTrap_cfg (s : State) (t : TrapCause) (v e : Word) : (takeTrap s t v e).cfg = s.cfg := by unfold takeTrap; split <;> rfl
@[simp] theorem takeTrap_x (s : State) (t : TrapCause) (v e : Word) : (takeTrap s t v e).x = s.x := by unfold takeTrap; split <;> rfl
@[simp] theorem takeTrap_mtvec (s : State) (t : TrapCause) (v e : Word) : (takeTrap s t v e).mtvec = s.mtvec := by unfold takeTrap; split <;> rfl
@[simp] theorem takeTrap_medeleg (s : State) (t : TrapCause) (v e : Word) : (takeTrap s t v e).medeleg = s.medeleg := by unfold takeTrap; split <;> rfl
@[simp] theorem takeTrap_mideleg (s : State) (t : TrapCause) (v e : Word) : (takeTrap s t v e).mideleg = s.mideleg := by unfold takeTrap; split <;> rfl
@[simp] theorem takeTrap_mie (s : State) (t : TrapCause) (v e : Word) : (takeTrap s t v e).mie = s.mie := by unfold takeTrap; split <;> rfl
@[simp] theorem takeTrap_mipSw (s : State) (t : TrapCause) (v e : Word) : (takeTrap s t v e).mipSw = s.mipSw := by unfold takeTrap; split <;> rfl
@[simp] theorem takeTrap_mnmivec (s : State) (t : TrapCause) (v e : Word) : (takeTrap s t v e).mnmivec = s.mnmivec := by unfold takeTrap; split <;> rfl
@[simp] theorem takeTrap_mscratch (s : State) (t : TrapCause) (v e : Word) : (takeTrap s t v e).mscratch = s.mscratch := by unfold takeTrap; split <;> rfl
@[simp] theorem takeTrap_mcounteren (s : State) (t : TrapCause) (v e : Word) : (takeTrap s t v e).mcounteren = s.mcounteren := by unfold takeTrap; split <;> rfl
@[simp] theorem takeTrap_mcycle (s : State) (t : TrapCause) (v e : Word) : (takeTrap s t v e).mcycle = s.mcycle := by unfold takeTrap; split <;> rfl
@[simp] theorem takeTrap_minstret (s : State) (t : TrapCause) (v e : Word) : (takeTrap s t v e).minstret = s.minstret := by unfold takeTrap; split <;> rfl
@[simp] theorem takeTrap_sedeleg (s : State) (t : TrapCause) (v e : Word) : (takeTrap s t v e).sedeleg = s.sedeleg := by unfold takeTrap; split <;> rfl
@[simp] theorem takeTrap_sideleg (s : State) (t : TrapCause) (v e : Word) : (takeTrap s t v e).sideleg = s.sideleg := by unfold takeTrap; split <;> rfl
@[simp] theorem takeTrap_stvec (s : State) (t : TrapCause) (v e : Word) : (takeTrap s t v e).stvec = s.stvec := by unfold takeTrap; split <;> rfl
@[simp] theorem takeTrap_sscratch (s : State) (t : TrapCause) (v e : Word) : (takeTrap s t v e).sscratch = s.sscratch := by unfold takeTrap; split <;> rfl
@[simp] theorem takeTrap_scounteren (s : State) (t : TrapCause) (v e : Word) : (takeTrap s t v e).scounteren = s.scounteren := by unfold takeTrap; split <;> rfl
@[simp] theorem takeTrap_satp (s : State) (t : TrapCause) (v e : Word) : (takeTrap s t v e).satp = s.satp := by unfold takeTrap; split <;> rfl
@[simp] theorem takeTrap_utvec (s : State) (t : TrapCause) (v e : Word) : (takeTrap s t v e).utvec = s.utvec := by unfold takeTrap; split <;> rfl
@[simp] theorem takeTrap_uscratch (s : State) (t : TrapCause) (v e : Word) : (takeTrap s t v e).uscratch = s.uscratch := by unfold takeTrap; split <;> rfl
@[simp] theorem takeTrap_pmpcfg (s : State) (t : TrapCause) (v e : Word) : (takeTrap s t v e).pmpcfg = s.pmpcfg := by unfold takeTrap; split <;> rfl
@[simp] theorem takeTrap_pmpaddr (s : State) (t : TrapCause) (v e : Word) : (takeTrap s t v e).pmpaddr = s.pmpaddr := by unfold takeTrap; split <;> rfl
@[simp] theorem takeTrap_mem (s : State) (t : TrapCause) (v e : Word) : (takeTrap s t v e).mem = s.mem := by unfold takeTrap; split <;> rfl
@[simp] theorem takeTrap_env (s : State) (t : TrapCause) (v e : Word) : (takeTrap s t v e).env = s.env := by unfold takeTrap; split <;> rfl
@[simp] theorem takeTrap_scheduled (s : State) (t : TrapCause) (v e : Word) : (takeTrap s t v e).scheduled = s.scheduled := by unfold takeTrap; split <;> rfl
@[simp] theorem takeTrap_tick (s : State) (t : TrapCause) (v e : Word) : (takeTrap s t v e).tick = s.tick := by unfold takeTrap; split <;> rfl

/-! ### `placeWord` -/

@[simp] theorem placeWord_cfg (s : State) (w : InstrWord) : (placeWord s w).cfg = s.cfg := rfl
@[simp] theorem placeWord_x (s : State) (w : InstrWord) : (placeWord s w).x = s.x := rfl
@[simp] theorem placeWord_pc (s : State) (w : InstrWord) : (placeWord s w).pc = s.pc := rfl
@[simp] theorem placeWord_priv (s : State) (w : InstrWord) : (placeWord s w).priv = s.priv := rfl
@[simp] theorem placeWord_mstatus (s : State) (w : InstrWord) : (placeWord s w).mstatus = s.mstatus := rfl
@[simp] theorem placeWord_mtvec (s : State) (w : InstrWord) : (placeWord s w).mtvec = s.mtvec := rfl
@[simp] theorem placeWord_medeleg (s : State) (w : InstrWord) : (placeWord s w).medeleg = s.medeleg := rfl
@[simp] theorem placeWord_mideleg (s : State) (w : InstrWord) : (placeWord s w).mideleg = s.mideleg := rfl
@[simp] theorem placeWord_mie (s : State) (w : InstrWord) : (placeWord s w).mie = s.mie := rfl
@[simp] theorem placeWord_mipSw (s : State) (w : InstrWord) : (placeWord s w).mipSw = s.mipSw := rfl
@[simp] theorem placeWord_mnmivec (s : State) (w : InstrWord) : (placeWord s w).mnmivec = s.mnmivec := rfl
@[simp] theorem placeWord_mscratch (s : State) (w : InstrWord) : (placeWord s w).mscratch = s.mscratch := rfl
@[simp] theorem placeWord_mepc (s : State) (w : InstrWord) : (placeWord s w).mepc = s.mepc := rfl
@[simp] theorem placeWord_mcause (s : State) (w : InstrWord) : (placeWord s w).mcause = s.mcause := rfl
@[simp] theorem placeWord_mtval (s : State) (w : InstrWord) : (placeWord s w).mtval = s.mtval := rfl
@[simp] theorem placeWord_mcounteren (s : State) (w : InstrWord) : (placeWord s w).mcounteren = s.mcounteren := rfl
@[simp] theorem placeWord_mcycle (s : State) (w : InstrWord) : (placeWord s w).mcycle = s.mcycle := rfl
@[simp] theorem placeWord_minstret (s : State) (w : InstrWord) : (placeWord s w).minstret = s.minstret := rfl
@[simp] theorem placeWord_sedeleg (s : State) (w : InstrWord) : (placeWord s w).sedeleg = s.sedeleg := rfl
@[simp] theorem placeWord_sideleg (s : State) (w : InstrWord) : (placeWord s w).sideleg = s.sideleg := rfl
@[simp] theorem placeWord_stvec (s : State) (w : InstrWord) : (placeWord s w).stvec = s.stvec := rfl
@[simp] theorem placeWord_sscratch (s : State) (w : InstrWord) : (placeWord s w).sscratch = s.sscratch := rfl
@[simp] theorem placeWord_sepc (s : State) (w : InstrWord) : (placeWord s w).sepc = s.sepc := rfl
@[simp] theorem placeWord_scause (s : State) (w : InstrWord) : (placeWord s w).scause = s.scause := rfl
@[simp] theorem placeWord_stval (s : State) (w : InstrWord) : (placeWord s w).stval = s.stval := rfl
@[simp] theorem placeWord_scounteren (s : State) (w : InstrWord) : (placeWord s w).scounteren = s.scounteren := rfl
@[simp] theorem placeWord_satp (s : State) (w : InstrWord) : (placeWord s w).satp = s.satp := rfl
@[simp] theorem placeWord_utvec (s : State) (w : InstrWord) : (placeWord s w).utvec = s.utvec := rfl
@[simp] theorem placeWord_uscratch (s : State) (w : InstrWord) : (placeWord s w).uscratch = s.uscratch := rfl
@[simp] theorem placeWord_uepc (s : State) (w : InstrWord) : (placeWord s w).uepc = s.uepc := rfl
@[simp] theorem placeWord_ucause (s : State) (w : InstrWord) : (placeWord s w).ucause = s.ucause := rfl
@[simp] theorem placeWord_utval (s : State) (w : InstrWord) : (placeWord s w).utval = s.utval := rfl
@[simp] theorem placeWord_pmpcfg (s : State) (w : InstrWord) : (placeWord s w).pmpcfg = s.pmpcfg := rfl
@[simp] theorem placeWord_pmpaddr (s : State) (w : InstrWord) : (placeWord s w).pmpaddr = s.pmpaddr := rfl
@[simp] theorem placeWord_env (s : State) (w : InstrWord) : (placeWord s w).env = s.env := rfl
@[simp] theorem placeWord_scheduled (s : State) (w : InstrWord) : (placeWord s w).scheduled = s.scheduled := rfl
@[simp] theorem placeWord_tick (s : State) (w : InstrWord) : (placeWord s w).tick = s.tick := rfl
/-! ### What each update sets -/

@[simp] theorem advancePc_pc (s : State) : (advancePc s).pc = truncXlen s.cfg (s.pc + 4#64) := rfl

@[simp] theorem retire_minstret (s : State) : (retire s).minstret = s.minstret + 1#64 := rfl

@[simp] theorem sampleInputs_mcycle (s : State) : (sampleInputs s).mcycle = s.mcycle + s.env.cycles := rfl

@[simp] theorem completeCsr_pc (s : State) (w : Option Csr) :
    (completeCsr s w).pc = truncXlen s.cfg (s.pc + 4#64) := by
  unfold completeCsr; repeat' (first | rfl | split)

/-- A completed CSR instruction retires once, unless it wrote the retirement counter (10_state.md R75). -/
theorem completeCsr_minstret (s : State) (w : Option Csr) :
    (completeCsr s w).minstret = if w.any csrIsInstret then s.minstret else s.minstret + 1#64 := by
  cases w with
  | none => rfl
  | some r => cases h : csrIsInstret r <;> simp [completeCsr, h]

@[simp] theorem returnFromTrap_pc (s : State) (p y : Priv) (e : Word) : (returnFromTrap s p y e).pc = e := rfl

@[simp] theorem returnFromTrap_priv (s : State) (p y : Priv) (e : Word) : (returnFromTrap s p y e).priv = y := rfl

@[simp] theorem returnFromTrap_mstatus (s : State) (p y : Priv) (e : Word) :
    (returnFromTrap s p y e).mstatus = popStack s.cfg s.mstatus p := rfl

@[simp] theorem returnFromTrap_minstret (s : State) (p y : Priv) (e : Word) :
    (returnFromTrap s p y e).minstret = s.minstret + 1#64 := rfl

@[simp] theorem endStep_tick (s : State) : (endStep s).tick = s.tick + 1 := by unfold endStep; split <;> rfl

/-- The platform never asserts the non-maskable interrupt (60_exceptions.md R340). -/
@[simp] theorem endStep_nmi (s : State) : (endStep s).env.nmi = false := by
  unfold endStep; split <;> rfl

/-- The real-time counter never decreases (11_state_supervisor_user_pmp.md R125). -/
theorem endStep_time_le (s : State) : s.env.time ≤ (endStep s).env.time := by
  unfold endStep lawfulInputs
  split <;> (simp only; split <;> simp_all [BitVec.le_def, BitVec.lt_def])

@[simp] theorem setX_zero (s : State) (v : Word) : setX s 0#5 v = s := by simp [setX]

/-- `x[0]` reads 0 in every state (10_state.md R20). -/
@[simp] theorem readX_zero (s : State) : readX s 0#5 = 0#64 := by simp [readX]

/-- Reading the register just written gives the XLEN-bit value; every other register reads as before (10_state.md R20). -/
theorem readX_setX (s : State) (r q : Reg) (v : Word) :
    readX (setX s r v) q = if q = r ∧ r ≠ 0#5 then truncXlen s.cfg v else readX s q := by
  by_cases hr : r = 0#5
  · subst hr; simp
  · by_cases hq : q = 0#5
    · subst hq; simp [Ne.symm hr]
    · by_cases h : q = r
      · subst h; simp [readX, setX, hr]
      · have : r.toNat ≠ q.toNat := fun e => h (BitVec.eq_of_toNat_eq e.symm)
        simp [readX, setX, hr, hq, h, this]

/-- The handling mode is the mode after the trap (60_exceptions.md R320). -/
@[simp] theorem takeTrap_priv (s : State) (t : TrapCause) (v e : Word) : (takeTrap s t v e).priv = trapHandler s t := by
  unfold takeTrap; split <;> simp_all

/-- The `mstatus` after a trap: the handling mode's stack is pushed (60_exceptions.md R320). -/
@[simp] theorem takeTrap_mstatus (s : State) (t : TrapCause) (v e : Word) :
    (takeTrap s t v e).mstatus = pushStack s.mstatus (trapHandler s t) s.priv := by
  unfold takeTrap; split <;> simp_all

end Sys2Proof.Machine
end

