-- ==== Sys2Proof/Laws/Csr.lean ====
section
/-! SUPPORT. The CSR address map and the shared CSR operations: each lemma says once what an operation can do, so that later
proofs cite it instead of unfolding the operation. -/

namespace Sys2Proof.Machine

/-- Every CSR stands at its address (10_state.md R25). -/
@[simp] theorem csrAt_csrAddress (r : Csr) : csrAt (csrAddress r) = some r := by
  have h1 : ∀ k : Fin 29, csrAt (csrAddress (.mhpmcounter k)) = some (.mhpmcounter k) := by decide
  have h2 : ∀ k : Fin 29, csrAt (csrAddress (.mhpmcounterh k)) = some (.mhpmcounterh k) := by decide
  have h3 : ∀ k : Fin 29, csrAt (csrAddress (.mhpevent k)) = some (.mhpevent k) := by decide
  have h4 : ∀ k : Fin 29, csrAt (csrAddress (.hpmcounter k)) = some (.hpmcounter k) := by decide
  have h5 : ∀ k : Fin 29, csrAt (csrAddress (.hpmcounterh k)) = some (.hpmcounterh k) := by decide
  have h6 : ∀ k : Fin 4, csrAt (csrAddress (.pmpcfg k)) = some (.pmpcfg k) := by decide
  have h7 : ∀ k : Fin 16, csrAt (csrAddress (.pmpaddr k)) = some (.pmpaddr k) := by decide
  cases r <;> first | rfl | apply h1 | apply h2 | apply h3 | apply h4 | apply h5 | apply h6 | apply h7

/-- Two CSRs never share an address (10_state.md R25). -/
theorem csrAddress_injective {r q : Csr} (h : csrAddress r = csrAddress q) : r = q := by
  have := congrArg csrAt h
  simpa using this

/-- An address of the map is the address of the CSR found there (10_state.md R25). -/
theorem csrAddress_of_csrAt {a : CsrAddr} {r : Csr} (h : csrAt a = some r) : csrAddress r = a := by
  apply BitVec.eq_of_toNat_eq
  unfold csrAt at h
  split at h
  case h_48 =>
    unfold csrFamilyAt at h
    split_ifs at h <;> cases h <;> simp only [csrAddress, BitVec.toNat_ofNat] <;> omega
  all_goals (cases h; simp_all [csrAddress])

/-- The CSR operand: the CSR at the address, where the access is legal (10_state.md R28). -/
theorem csrOperand_eq_some {s : State} {a : CsrAddr} {w : Bool} {r : Csr} :
    csrOperand s a w = some r ↔ csrAt a = some r ∧ csrAccessLegal s r w = true := by
  unfold csrOperand
  cases h : csrAt a with
  | none => simp
  | some q => by_cases hl : csrAccessLegal s q w = true <;> simp [hl] <;> rintro rfl <;> simp [hl]

/-- What a CSR write leaves alone: everything but the CSR file. -/
structure CsrWriteKeeps (s t : State) : Prop where
  cfg : t.cfg = s.cfg
  x : t.x = s.x
  pc : t.pc = s.pc
  priv : t.priv = s.priv
  mem : t.mem = s.mem
  env : t.env = s.env
  scheduled : t.scheduled = s.scheduled
  tick : t.tick = s.tick
  scause : t.scause = s.scause
  stval : t.stval = s.stval

/-- A CSR write changes nothing but the CSR file, and no write reaches `scause` or `stval` (10_state.md R30). -/
theorem csrWrite_keeps {s t : State} {r : Csr} {v : Word} (h : csrWrite s r v = .next t) : CsrWriteKeeps s t := by
  cases r <;> simp only [csrWrite, mstatusWrite] at h
  case mstatus =>
    split at h
    · cases h; constructor <;> rfl
    · cases h
  all_goals (cases h; constructor <;> rfl)

/-- A CSR write is refused only when it would leave MPP naming no implemented mode (10_state.md R49). -/
theorem csrWrite_refused {s : State} {r : Csr} {v : Word} {e : Refusal} :
    csrWrite s r v = .refused e ↔ r = .mstatus ∧ mppLegal s.cfg (getMpp v) = false ∧ e = .illegalPreviousMode := by
  cases r
  case mstatus =>
    simp only [csrWrite, mstatusWrite, true_and]
    split
    · next h => simp only [h, reduceCtorEq, false_and]
    · next h => simp only [Bool.not_eq_true] at h; simp only [h, true_and, Host.Outcome.refused.injEq, eq_comm]
  all_goals simp only [csrWrite, reduceCtorEq, false_and]

/-- A CSR write that is not refused answers a next state. -/
theorem csrWrite_next (s : State) (r : Csr) (v : Word) (h : r = .mstatus → mppLegal s.cfg (getMpp v) = true) :
    ∃ t, csrWrite s r v = .next t := by
  cases r
  case mstatus => exact ⟨_, by simp only [csrWrite, mstatusWrite, h rfl, if_true]; rfl⟩
  all_goals exact ⟨_, rfl⟩

/-- Everything the common sequence of the CSR instructions can answer (40_csr_instructions.md R230). -/
theorem csrSequence_next {s t : State} {w : InstrWord} {a : CsrAddr} {rd : Reg} {willWrite : Bool} {new : Word → Word}
    (h : csrSequence s w a rd willWrite new = .next t) :
    (csrOperand s a willWrite = none ∧ t = raiseIllegal s w) ∨
      ∃ r, csrOperand s a willWrite = some r ∧
        ((willWrite = false ∧ t = completeCsr (setX s rd (csrRead s r)) none) ∨
          (willWrite = true ∧ ∃ u, csrWrite (setX s rd (csrRead s r)) r (new (csrRmwBase s r)) = .next u ∧
            t = completeCsr u (some r))) := by
  unfold csrSequence at h
  cases ho : csrOperand s a willWrite with
  | none =>
    rw [ho] at h
    exact .inl ⟨rfl, (Host.Outcome.next.inj h).symm⟩
  | some r =>
    rw [ho] at h
    refine .inr ⟨r, rfl, ?_⟩
    cases willWrite with
    | false => exact .inl ⟨rfl, by simpa using (h : _ = Host.Outcome.next t).symm⟩
    | true =>
      simp only [if_true] at h
      split at h
      · next u hu => exact .inr ⟨rfl, u, hu, (Host.Outcome.next.inj h).symm⟩
      · cases h
      · cases h

end Sys2Proof.Machine
end

