-- ==== Sys2Proof/Laws/Memory.lean ====
section
/-! SUPPORT. Memory: what a write of one byte does to every read, that every memory operation keeps the canonical form, and the
same for runs of bytes. -/

namespace Sys2Proof.Machine

/-- Read after write: the written address reads the written byte, every other address reads as before. -/
theorem readByte_writeByte (m : Memory) (a : Nat) (v : Byte) (b : Nat) :
    Memory.readByte (Memory.writeByte m a v) b = if b = a then some v else Memory.readByte m b := by
  induction m with
  | nil => simp [Memory.writeByte, Memory.readByte]
  | cons c rest ih =>
    obtain ⟨a', w⟩ := c
    simp only [Memory.writeByte]
    split_ifs with h1 h2 <;> simp only [Memory.readByte, ih] <;> split_ifs <;> simp_all

/-- A canonical list with a smaller head address in front stays canonical. -/
theorem wf_cons {a : Nat} {v : Byte} {m : Memory} :
    Memory.wf ((a, v) :: m) = true ↔ (∀ c ∈ m, a < c.1) ∧ Memory.wf m = true := by
  induction m generalizing a v with
  | nil => simp [Memory.wf, Memory.unlisted]
  | cons c rest ih =>
    obtain ⟨a', w⟩ := c
    have hc : Memory.wf ((a, v) :: (a', w) :: rest) = (decide (a < a') && Memory.wf ((a', w) :: rest)) := by
      rw [Memory.wf, show (some v != Memory.unlisted) = true from rfl, Bool.and_true]
    rw [hc]
    constructor
    · intro h
      simp only [Bool.and_eq_true, decide_eq_true_eq] at h
      refine ⟨fun c hcm => ?_, h.2⟩
      rcases List.mem_cons.mp hcm with rfl | hr
      · exact h.1
      · exact lt_trans h.1 ((ih.mp h.2).1 c hr)
    · rintro ⟨h1, h2⟩
      simpa using ⟨h1 _ (List.mem_cons_self), h2⟩

theorem mem_writeByte {m : Memory} {a : Nat} {v : Byte} {c : Host.Cell} (h : c ∈ Memory.writeByte m a v) :
    c = (a, v) ∨ c ∈ m := by
  induction m with
  | nil => simpa [Memory.writeByte] using h
  | cons d rest ih =>
    obtain ⟨a', w⟩ := d
    simp only [Memory.writeByte] at h
    split_ifs at h with h1 h2
    · simpa using h
    · rcases List.mem_cons.mp h with h | h
      · exact .inl h
      · exact .inr (List.mem_cons_of_mem _ h)
    · rcases List.mem_cons.mp h with h | h
      · exact .inr (h ▸ List.mem_cons_self)
      · rcases ih h with h | h
        · exact .inl h
        · exact .inr (List.mem_cons_of_mem _ h)

/-- Writing a byte keeps the canonical form. -/
theorem writeByte_wf {m : Memory} (a : Nat) (v : Byte) (h : Memory.wf m = true) :
    Memory.wf (Memory.writeByte m a v) = true := by
  induction m with
  | nil => simp [Memory.writeByte, Memory.wf, Memory.unlisted]
  | cons c rest ih =>
    obtain ⟨a', w⟩ := c
    obtain ⟨hlt, hrest⟩ := wf_cons.mp h
    simp only [Memory.writeByte]
    split_ifs with h1 h2
    · refine wf_cons.mpr ⟨fun c hc => ?_, h⟩
      rcases List.mem_cons.mp hc with rfl | hc
      · exact h1
      · exact lt_trans h1 (hlt c hc)
    · subst h2; exact wf_cons.mpr ⟨hlt, hrest⟩
    · refine wf_cons.mpr ⟨fun c hc => ?_, ih hrest⟩
      rcases mem_writeByte hc with rfl | hc
      · show a' < a; omega
      · exact hlt c hc

/-- Writing bytes keeps the canonical form. -/
theorem memWrite_wf {m : Memory} (addr : Nat) (bs : List Byte) (h : Memory.wf m = true) :
    Memory.wf (memWrite m addr bs) = true := by
  induction bs generalizing m addr with
  | nil => exact h
  | cons b bs ih => exact ih (addr + 1) (writeByte_wf addr b h)

/-- After a write of bytes, an address inside the run reads its byte and an address outside reads as before. -/
theorem readByte_memWrite (m : Memory) (addr : Nat) (bs : List Byte) (a : Nat) :
    Memory.readByte (memWrite m addr bs) a =
      if addr ≤ a ∧ a < addr + bs.length then bs[a - addr]? else Memory.readByte m a := by
  induction bs generalizing m addr with
  | nil => simp only [memWrite, List.length_nil, Nat.add_zero]; rw [if_neg (by omega)]
  | cons b bs ih =>
    simp only [memWrite, ih, readByte_writeByte, List.length_cons]
    by_cases h : a = addr
    · subst h; simp
    · by_cases h2 : addr + 1 ≤ a ∧ a < addr + 1 + bs.length
      · rw [if_pos h2, if_pos (by omega)]
        obtain ⟨k, hk⟩ : ∃ k, a - addr = k + 1 := ⟨a - addr - 1, by omega⟩
        rw [hk, List.getElem?_cons_succ]
        congr 1; omega
      · rw [if_neg h2, if_neg h, if_neg (by omega)]

/-- A read of bytes succeeds with exactly the bytes that the addresses hold. -/
theorem memRead_eq_some {m : Memory} {addr n : Nat} {bs : List Byte} :
    memRead m addr n = some bs ↔ bs.length = n ∧ ∀ k, k < n → Memory.readByte m (addr + k) = bs[k]? := by
  induction n generalizing addr bs with
  | zero =>
    simp only [memRead, Option.some.injEq]
    constructor
    · rintro rfl; simp
    · rintro ⟨h, -⟩; exact (List.length_eq_zero_iff.mp h).symm
  | succ n ih =>
    simp only [memRead]
    constructor
    · intro h
      split at h
      · next b bs' hb hbs =>
        obtain ⟨hl, hk⟩ := ih.mp hbs
        cases h
        refine ⟨by simp [hl], fun k hk' => ?_⟩
        cases k with
        | zero => simpa using hb
        | succ k => simpa [Nat.add_comm, Nat.add_left_comm, Nat.add_assoc] using hk k (by omega)
      · cases h
    · rintro ⟨hl, hk⟩
      cases bs with
      | nil => simp at hl
      | cons b bs =>
        have h0 : Memory.readByte m addr = some b := by simpa using hk 0 (by omega)
        have h1 : memRead m (addr + 1) n = some bs := ih.mpr ⟨by simpa using hl, fun k hk' => by
          simpa [Nat.add_comm, Nat.add_left_comm, Nat.add_assoc] using hk (k + 1) (by omega)⟩
        rw [h0, h1]

/-- A word's bytes spell the word (20_memory.md R162: little-endian). -/
theorem bytesWord_wordBytes (w : InstrWord) :
    wordBytes w = [w.extractLsb' 0 8, w.extractLsb' 8 8, w.extractLsb' 16 8, w.extractLsb' 24 8] ∧
      bytesWord (w.extractLsb' 0 8) (w.extractLsb' 8 8) (w.extractLsb' 16 8) (w.extractLsb' 24 8) = w := by
  refine ⟨rfl, ?_⟩
  unfold bytesWord
  ext i hi
  simp only [BitVec.getElem_append, BitVec.getElem_extractLsb']
  rw [← BitVec.getLsbD_eq_getElem]
  split_ifs <;> congr 1 <;> omega

/-- Memory after reset is in canonical form, whatever the parameters. -/
@[simp] theorem initial_mem_wf (c : Config) : Memory.wf (State.initial c).mem = true := rfl

end Sys2Proof.Machine
end

