-- ==== Sys2Proof/Laws/PerInstr.lean ====
section
/-! SUPPORT. Statements about every instruction as syntax, one lemma per constructor of Instr. -/

namespace Sys2Proof.Laws.OpcodeIsSystem

/-- The instruction's word has the major opcode SYSTEM in bits 6:0 (30_encoding.md R203). -/
def Statement (i : Instr) : Prop := fieldOpcode (encode i) = opcodeSystem

theorem encodeFields_opcode (csr : CsrAddr) (f : BitVec 5) (f3 : BitVec 3) (rd : Reg) :
    fieldOpcode (encodeFields csr f f3 rd) = opcodeSystem := by
  unfold fieldOpcode encodeFields
  ext k hk
  simp only [BitVec.getElem_extractLsb', Nat.zero_add, BitVec.getLsbD_append, if_pos (show k < 7 by omega),
    if_pos (show k < 5 + 7 by omega), if_pos (show k < 3 + (5 + 7) by omega),
    if_pos (show k < 5 + (3 + (5 + 7)) by omega)]
  exact BitVec.getLsbD_eq_getElem hk

theorem csrrw (rd : Reg) (csr : CsrAddr) (rs1 : Reg) : Statement (.csrrw rd csr rs1) := encodeFields_opcode _ _ _ _
theorem csrrs (rd : Reg) (csr : CsrAddr) (rs1 : Reg) : Statement (.csrrs rd csr rs1) := encodeFields_opcode _ _ _ _
theorem csrrc (rd : Reg) (csr : CsrAddr) (rs1 : Reg) : Statement (.csrrc rd csr rs1) := encodeFields_opcode _ _ _ _
theorem csrrwi (rd : Reg) (csr : CsrAddr) (zimm : Zimm) : Statement (.csrrwi rd csr zimm) := encodeFields_opcode _ _ _ _
theorem csrrsi (rd : Reg) (csr : CsrAddr) (zimm : Zimm) : Statement (.csrrsi rd csr zimm) := encodeFields_opcode _ _ _ _
theorem csrrci (rd : Reg) (csr : CsrAddr) (zimm : Zimm) : Statement (.csrrci rd csr zimm) := encodeFields_opcode _ _ _ _
theorem mret : Statement .mret := by unfold Statement; decide
theorem sret : Statement .sret := by unfold Statement; decide
theorem uret : Statement .uret := by unfold Statement; decide
theorem rdcycle (rd : Reg) : Statement (.rdcycle rd) := encodeFields_opcode _ _ _ _
theorem rdcycleh (rd : Reg) : Statement (.rdcycleh rd) := encodeFields_opcode _ _ _ _
theorem rdtime (rd : Reg) : Statement (.rdtime rd) := encodeFields_opcode _ _ _ _
theorem rdtimeh (rd : Reg) : Statement (.rdtimeh rd) := encodeFields_opcode _ _ _ _
theorem rdinstret (rd : Reg) : Statement (.rdinstret rd) := encodeFields_opcode _ _ _ _
theorem rdinstreth (rd : Reg) : Statement (.rdinstreth rd) := encodeFields_opcode _ _ _ _

end Sys2Proof.Laws.OpcodeIsSystem
end

