-- ==== Sys2Proof/Laws/Step.lean ====
section
/-! SUPPORT. Everything an instruction and a step can answer: the inversion lemmas from which invariants are derived without
unfolding `exec` or `step`. -/

namespace Sys2Proof.Machine

/-- What a CSR instruction that completed did: it read CSR `r` into `rd` and wrote `v` to it, or wrote nothing. -/
inductive CsrEffect (s : State) : State → Prop where
  | read (rd : Reg) (r : Csr) (legal : csrAccessLegal s r false = true) :
      CsrEffect s (completeCsr (setX s rd (csrRead s r)) none)
  | write (rd : Reg) (r : Csr) (v : Word) (u : State) (legal : csrAccessLegal s r true = true)
      (written : csrWrite (setX s rd (csrRead s r)) r v = .next u) : CsrEffect s (completeCsr u (some r))

/-- What an xRET that completed did (42_trap_return.md R280 to R283). -/
inductive ReturnEffect (s : State) : State → Prop where
  | mret (y : Priv) (mode : s.priv = .M) (mpp : modeOfCode s.cfg (getMpp s.mstatus) = some y) :
      ReturnEffect s (returnFromTrap s .M y s.mepc)
  | sret (implemented : s.cfg.hasS = true) (mode : s.priv ≠ .U) :
      ReturnEffect s (returnFromTrap s .S (if s.mstatus.getLsbD bitSPP then .S else .U) s.sepc)
  | uret (implemented : s.cfg.hasN = true) : ReturnEffect s (returnFromTrap s .U .U s.uepc)

theorem csrSequence_effect {s t : State} {w : InstrWord} {a : CsrAddr} {rd : Reg} {willWrite : Bool} {new : Word → Word}
    (h : csrSequence s w a rd willWrite new = .next t) : t = raiseIllegal s w ∨ CsrEffect s t := by
  rcases csrSequence_next h with ⟨-, rfl⟩ | ⟨r, ho, ⟨rfl, rfl⟩ | ⟨rfl, u, hu, rfl⟩⟩
  · exact .inl rfl
  · exact .inr (.read rd r (csrOperand_eq_some.mp ho).2)
  · exact .inr (.write rd r _ u (csrOperand_eq_some.mp ho).2 hu)

/-- Everything an instruction can do when it answers a next state: raise illegal-instruction, access a CSR, or return from a
trap. -/
theorem exec_next {i : Instr} {s t : State} (h : exec i s = .next t) :
    t = raiseIllegal s (encode i) ∨ CsrEffect s t ∨ ReturnEffect s t := by
  cases i with
  | mret =>
    simp only [exec, execMret] at h
    split at h
    · next hp =>
      split at h
      · next y hy => cases h; exact .inr (.inr (.mret y hp hy))
      · cases h
    · cases h; exact .inl rfl
  | sret =>
    simp only [exec, execSret] at h
    split at h
    · next hp => cases h; exact .inr (.inr (.sret hp.1 hp.2))
    · cases h; exact .inl rfl
  | uret =>
    simp only [exec, execUret] at h
    split at h
    · next hp => cases h; exact .inr (.inr (.uret hp))
    · cases h; exact .inl rfl
  | csrrw rd csr rs1 => rw [exec, execCsrrw] at h; exact (csrSequence_effect h).imp_right .inl
  | csrrs rd csr rs1 => rw [exec, execCsrrs] at h; exact (csrSequence_effect h).imp_right .inl
  | csrrc rd csr rs1 => rw [exec, execCsrrc] at h; exact (csrSequence_effect h).imp_right .inl
  | csrrwi rd csr z => rw [exec, execCsrrwi] at h; exact (csrSequence_effect h).imp_right .inl
  | csrrsi rd csr z => rw [exec, execCsrrsi] at h; exact (csrSequence_effect h).imp_right .inl
  | csrrci rd csr z => rw [exec, execCsrrci] at h; exact (csrSequence_effect h).imp_right .inl
  | rdcycle rd => rw [exec, execRdcycle] at h; exact (csrSequence_effect h).imp_right .inl
  | rdcycleh rd => rw [exec, execRdcycleh] at h; exact (csrSequence_effect h).imp_right .inl
  | rdtime rd => rw [exec, execRdtime] at h; exact (csrSequence_effect h).imp_right .inl
  | rdtimeh rd => rw [exec, execRdtimeh] at h; exact (csrSequence_effect h).imp_right .inl
  | rdinstret rd => rw [exec, execRdinstret] at h; exact (csrSequence_effect h).imp_right .inl
  | rdinstreth rd => rw [exec, execRdinstreth] at h; exact (csrSequence_effect h).imp_right .inl

/-- Everything a step can do when it answers a next state (60_exceptions.md R360): with the inputs sampled, take an interrupt,
raise an instruction access fault, or run the instruction the fetched bytes decode to; then the inputs change. -/
theorem step_next {s s' : State} (h : step s = .next s') :
    s.env.nmi = false ∧ ∃ t, s' = endStep t ∧
      ((∃ i, pickInterrupt (sampleInputs s) = some i ∧ t = takeInterrupt (sampleInputs s) i) ∨
        (pickInterrupt (sampleInputs s) = none ∧
          ((∃ e, fetchBytes (sampleInputs s) = .fault e ∧ t = raiseException (sampleInputs s) e s.pc 0#32) ∨
            ∃ bs i rest, fetchBytes (sampleInputs s) = .next bs ∧ decodeBytes bs = .ok (i, rest) ∧
              exec i (sampleInputs s) = .next t))) := by
  unfold step hartStep at h
  split at h
  · cases h
  · next hn =>
    refine ⟨by simpa using hn, ?_⟩
    split at h
    · next t ht =>
      cases h
      refine ⟨t, rfl, ?_⟩
      unfold interruptOrExec at ht
      split at ht
      · next i hi => cases ht; exact .inl ⟨i, hi, rfl⟩
      · next hi =>
        refine .inr ⟨hi, ?_⟩
        unfold fetchAndExec at ht
        split at ht
        · next e he => cases ht; exact .inl ⟨e, he, rfl⟩
        · cases ht
        · next bs hbs =>
          split at ht
          · next i rest hd => exact .inr ⟨bs, i, rest, hbs, hd, ht⟩
          · cases ht
    · cases h
    · cases h

/-- A fetch fails only with an instruction access fault (20_memory.md R162, R177). -/
theorem fetchBytes_fault {s : State} {e : Exception} (h : fetchBytes s = .fault e) : e = .instructionAccessFault := by
  unfold fetchBytes checkedRead at h
  split at h
  · cases h
  · split at h
    · cases h; rfl
    · split at h <;> cases h

/-- Placing an instruction word keeps memory canonical. -/
theorem placeWord_wf {s : State} (w : InstrWord) (h : Memory.wf s.mem = true) : Memory.wf (placeWord s w).mem = true :=
  memWrite_wf _ _ h

/-- A checked write that completes keeps memory canonical. -/
theorem checkedWrite_wf {s t : State} {addr : Nat} {bs : List Byte} (h : Memory.wf s.mem = true)
    (hw : checkedWrite s addr bs = .next t) : Memory.wf t.mem = true := by
  unfold checkedWrite at hw
  split at hw
  · cases hw
  · split at hw
    · cases hw
    · split at hw
      · cases hw; exact memWrite_wf _ _ h
      · cases hw

end Sys2Proof.Machine
end

