-- ==== Sys2Proof/Tests/Slice0.lean ====
section
/-! SUPPORT. The package's own tests: the smoke test of WellFormed, every constructor's decoding on a word written out field by
field, at most two single steps per instruction, and the witnesses that the hypotheses of the statements can be met.

Expected results are those of spec/95_test_vectors.md (the vector's id stands in each docstring) or hand calculation from the
rule named. -/

open Sys2Proof Sys2Proof.Machine

namespace Sys2Proof.Tests

/-! ## WellFormed: the check refuses each spelling of a counter word as CSRRS -/

theorem test_wellFormed_refuses_csrrs_cycle : (Instr.csrrs 5#5 0xC00#12 0#5).wellFormed = false := by decide
theorem test_wellFormed_refuses_csrrs_cycleh : (Instr.csrrs 5#5 0xC80#12 0#5).wellFormed = false := by decide
theorem test_wellFormed_refuses_csrrs_time : (Instr.csrrs 5#5 0xC01#12 0#5).wellFormed = false := by decide
theorem test_wellFormed_refuses_csrrs_timeh : (Instr.csrrs 5#5 0xC81#12 0#5).wellFormed = false := by decide
theorem test_wellFormed_refuses_csrrs_instret : (Instr.csrrs 5#5 0xC02#12 0#5).wellFormed = false := by decide
theorem test_wellFormed_refuses_csrrs_instreth : (Instr.csrrs 5#5 0xC82#12 0#5).wellFormed = false := by decide
theorem test_wellFormed_allows_csrrs_that_writes : (Instr.csrrs 5#5 0xC00#12 1#5).wellFormed = true := by decide

/-! ## Decoding: words written out as `csr_rs1_funct3_rd_opcode` (30_encoding.md R200, R203 to R206) -/

theorem test_decode_csrrw :
    decodeWord 0b001101000000_00110_001_00101_1110011#32 = .ok (.csrrw 5#5 0x340#12 6#5) := by decide
theorem test_decode_csrrs :
    decodeWord 0b001100000100_00111_010_00000_1110011#32 = .ok (.csrrs 0#5 0x304#12 7#5) := by decide
theorem test_decode_csrrc :
    decodeWord 0b001100000000_01100_011_00001_1110011#32 = .ok (.csrrc 1#5 0x300#12 12#5) := by decide
theorem test_decode_csrrwi :
    decodeWord 0b001101000000_10101_101_00010_1110011#32 = .ok (.csrrwi 2#5 0x340#12 21#5) := by decide
theorem test_decode_csrrsi :
    decodeWord 0b001100000000_01000_110_11111_1110011#32 = .ok (.csrrsi 31#5 0x300#12 8#5) := by decide
theorem test_decode_csrrci :
    decodeWord 0b001100000000_01000_111_00100_1110011#32 = .ok (.csrrci 4#5 0x300#12 8#5) := by decide
theorem test_decode_mret : decodeWord 0b001100000010_00000_000_00000_1110011#32 = .ok .mret := by decide
theorem test_decode_sret : decodeWord 0b000100000010_00000_000_00000_1110011#32 = .ok .sret := by decide
theorem test_decode_uret : decodeWord 0b000000000010_00000_000_00000_1110011#32 = .ok .uret := by decide
theorem test_decode_rdcycle : decodeWord 0b110000000000_00000_010_00101_1110011#32 = .ok (.rdcycle 5#5) := by decide
theorem test_decode_rdcycleh : decodeWord 0b110010000000_00000_010_00101_1110011#32 = .ok (.rdcycleh 5#5) := by decide
theorem test_decode_rdtime : decodeWord 0b110000000001_00000_010_00110_1110011#32 = .ok (.rdtime 6#5) := by decide
theorem test_decode_rdtimeh : decodeWord 0b110010000001_00000_010_00110_1110011#32 = .ok (.rdtimeh 6#5) := by decide
theorem test_decode_rdinstret : decodeWord 0b110000000010_00000_010_00111_1110011#32 = .ok (.rdinstret 7#5) := by decide
theorem test_decode_rdinstreth :
    decodeWord 0b110010000010_00000_010_00111_1110011#32 = .ok (.rdinstreth 7#5) := by decide

/-- A counter word whose `rs1` field is not 0 is CSRRS (R205: bits 19:15 = 0). -/
theorem test_decode_csrrs_of_a_counter_that_writes :
    decodeWord 0b110000000000_00001_010_00101_1110011#32 = .ok (.csrrs 5#5 0xC00#12 1#5) := by decide

/-- A counter CSR read by another form is that form. -/
theorem test_decode_csrrc_of_a_counter :
    decodeWord 0b110000000000_00000_011_00101_1110011#32 = .ok (.csrrc 5#5 0xC00#12 0#5) := by decide

/-- `funct3` = 100, ECALL, MRET with `rd` = 1 and ADDI are no rows of the table (R207). -/
theorem test_decode_refuses_words_of_no_row :
    decodeWord 0b001101000000_00110_100_00101_1110011#32 = .error .notInTable ∧
    decodeWord 0x00000073#32 = .error .notInTable ∧ decodeWord 0x302000F3#32 = .error .notInTable ∧
    decodeWord 0x00000013#32 = .error .notInTable ∧ decodeWord 0x00000001#32 = .error .parcel16 := by decide

/-- The encoder writes the words of the spec's examples (R231, R235, R206, R205). -/
theorem test_encode_writes_the_example_words :
    encode (.csrrw 5#5 0x340#12 6#5) = 0x340312F3#32 ∧ encode (.csrrsi 0#5 0x300#12 8#5) = 0x30046073#32 ∧
    encode .mret = 0x30200073#32 ∧ encode (.rdinstreth 7#5) = 0xC82023F3#32 := by decide

/-- The bytes of a word lie least significant first (20_memory.md R162). -/
theorem test_word_bytes_are_little_endian :
    wordBytes 0x340312F3#32 = [0xF3#8, 0x12#8, 0x03#8, 0x34#8] ∧
    bytesWord 0xF3#8 0x12#8 0x03#8 0x34#8 = 0x340312F3#32 := by decide

/-! ## One step on a small state -/

/-- What a property of the next state says of an outcome. -/
def nextIs (o : Host.Outcome State Fault Refusal) (p : State → Bool) : Bool :=
  match o with
  | .next t => p t
  | .fault _ | .refused _ => false

theorem exists_next {o : Host.Outcome State Fault Refusal} {p : State → Bool} (h : nextIs o p = true) :
    ∃ t, o = .next t ∧ p t = true := by
  cases o with
  | next t => exact ⟨t, rfl, h⟩
  | fault _ => cases h
  | refused _ => cases h

/-- The start of the single-instruction vectors (95_test_vectors.md section 0). -/
def base : State := { State.reset with pc := 0x100#64, mtvec := 0x800#64, stvec := 0x900#64, utvec := 0xA00#64 }

/-- The same with PMP entry 0 open over the whole address space, in mode `p`. -/
def open' (p : Priv) : State :=
  { base with priv := p, pmpcfg := State.reset.pmpcfg.set 0 0x1F#8, pmpaddr := State.reset.pmpaddr.set 0 0xFFFFFFFF#64 }

/-- The same for XLEN = 32 with a `time` that does not trap. -/
def timed : State := { base with cfg := { Config.t32 with timeCsrTraps := false } }

/-- One step of `w` at the pc. -/
def run (s : State) (w : InstrWord) : Host.Outcome State Fault Refusal := step (placeWord s w)

/-- The instruction retired and the pc moved on. -/
def retired (t : State) : Bool := t.pc == 0x104#64 && t.minstret == 1#64

/-- The instruction raised illegal-instruction into M-mode, `w` being its word. -/
def illegal (w : InstrWord) (t : State) : Bool :=
  t.mcause == 2#64 && t.mepc == 0x100#64 && t.mtval == w.setWidth 64 && t.pc == 0x800#64 && t.minstret == 0#64

/-- VA1. -/
theorem test_csrrw_swaps :
    nextIs (run { base with x := base.x.set 6 0x1234#64, mscratch := 0xDEADBEEF#64 } 0x340312F3#32) (fun t =>
      retired t && readX t 5#5 == 0xDEADBEEF#64 && t.mscratch == 0x1234#64 && readX t 6#5 == 0x1234#64) = true := by
  decide

/-- VA2: `rd` = `rs1`. -/
theorem test_csrrw_same_register :
    nextIs (run { base with x := base.x.set 6 0x1234#64, mscratch := 0xDEADBEEF#64 } 0x34031373#32) (fun t =>
      retired t && readX t 6#5 == 0xDEADBEEF#64 && t.mscratch == 0x1234#64) = true := by
  decide

/-- VA6: only the implemented enable bits can be set. -/
theorem test_csrrs_sets_the_implemented_bits :
    nextIs (run { base with x := base.x.set 7 0xFFFFFFFF#64, mie := 8#64 } 0x3043A073#32) (fun t =>
      retired t && t.mie == 0xBBB#64) = true := by
  decide

/-- VA15: the test is the register number, not its value. -/
theorem test_csrrs_of_a_zero_register_is_a_write :
    nextIs (run { base with x := base.x.set 5 0x99#64 } 0xF113A2F3#32) (fun t =>
      illegal 0xF113A2F3#32 t && readX t 5#5 == 0x99#64) = true := by
  decide

/-- VA7. -/
theorem test_csrrc_clears :
    nextIs (run { base with x := base.x.set 12 8#64, mstatus := 0x1888#64 } 0x30063073#32) (fun t =>
      retired t && t.mstatus == 0x1880#64) = true := by
  decide

/-- VA9: `zimm` = 0 does not write. -/
theorem test_csrrwi_zero_does_not_write :
    nextIs (run { base with uscratch := 0xABCD#64 } 0x040051F3#32) (fun t =>
      retired t && readX t 3#5 == 0xABCD#64 && t.uscratch == 0xABCD#64) = true := by
  decide

/-- VA8. -/
theorem test_csrrwi_writes :
    nextIs (run base 0x340AD073#32) (fun t => retired t && t.mscratch == 0x15#64) = true := by decide

/-- VA10. -/
theorem test_csrrsi_sets :
    nextIs (run { base with mstatus := 0x1800#64 } 0x30046073#32) (fun t =>
      retired t && t.mstatus == 0x1808#64) = true := by
  decide

/-- VA11. -/
theorem test_csrrci_clears :
    nextIs (run { base with mstatus := 0x1888#64 } 0x30047273#32) (fun t =>
      retired t && readX t 4#5 == 0x1888#64 && t.mstatus == 0x1880#64) = true := by
  decide

/-- VH1. -/
theorem test_mret_to_user :
    nextIs (run { base with mstatus := 0x80#64, mepc := 0x200#64 } 0x30200073#32) (fun t =>
      t.pc == 0x200#64 && t.mstatus == 0x88#64 && t.priv == .U && t.minstret == 1#64) = true := by
  decide

/-- VH6. -/
theorem test_mret_refuses_an_illegal_mpp :
    exec .mret { base with mstatus := 0x1080#64 } = .refused .illegalPreviousMode := by rfl

/-- VH9: SRET in M-mode leaves the machine fields. -/
theorem test_sret_from_machine_mode :
    nextIs (run { base with mstatus := 0x19A8#64, sepc := 0x300#64 } 0x10200073#32) (fun t =>
      t.pc == 0x300#64 && t.mstatus == 0x18AA#64 && t.priv == .S) = true := by
  decide

/-- VH10: illegal in U-mode, the supervisor fields untouched. -/
theorem test_sret_in_user_mode_is_illegal :
    nextIs (run { open' .U with mstatus := 0x120#64 } 0x10200073#32) (fun t =>
      illegal 0x10200073#32 t && t.mstatus == 0x120#64 && t.priv == .M) = true := by
  decide

/-- VH12. -/
theorem test_uret_from_machine_mode :
    nextIs (run { base with mstatus := 0x1809#64, uepc := 0x400#64 } 0x00200073#32) (fun t =>
      t.pc == 0x400#64 && t.mstatus == 0x1818#64 && t.priv == .U) = true := by
  decide

/-- R261's example. -/
theorem test_rdcycle_reads_the_low_half :
    nextIs (run { base with mcycle := 0x100000007#64 } 0xC00022F3#32) (fun t =>
      retired t && readX t 5#5 == 7#64) = true := by
  decide

/-- R262's example. -/
theorem test_rdcycleh_reads_the_high_half :
    nextIs (run { base with mcycle := 0x100000007#64 } 0xC80022F3#32) (fun t =>
      retired t && readX t 5#5 == 1#64) = true := by
  decide

/-- R263's example: the default traps in M-mode too. -/
theorem test_rdtime_traps :
    nextIs (run base 0xC0102373#32) (fun t => illegal 0xC0102373#32 t && readX t 6#5 == 0#64) = true := by decide

/-- R263 with `TIME_CSR_TRAPS` = false. -/
theorem test_rdtime_reads_where_it_does_not_trap :
    nextIs (run { timed with env := { quietInputs with time := 0x300000005#64 } } 0xC0102373#32) (fun t =>
      retired t && readX t 6#5 == 5#64) = true := by
  decide

/-- R264 with `TIME_CSR_TRAPS` = false. -/
theorem test_rdtimeh_reads_where_it_does_not_trap :
    nextIs (run { timed with env := { quietInputs with time := 0x300000005#64 } } 0xC8102373#32) (fun t =>
      retired t && readX t 6#5 == 3#64) = true := by
  decide

/-- R265's example: the count before this instruction retires. -/
theorem test_rdinstret_reads_the_count_before :
    nextIs (run { base with minstret := 41#64 } 0xC02023F3#32) (fun t =>
      readX t 7#5 == 41#64 && t.minstret == 42#64) = true := by
  decide

/-- R266's example. -/
theorem test_rdinstreth_reads_the_high_half :
    nextIs (run { base with minstret := 0x200000000#64 } 0xC82023F3#32) (fun t => readX t 7#5 == 2#64) = true := by
  decide

/-- R266: illegal for XLEN = 64. -/
theorem test_rdinstreth_is_illegal_on_rv64 :
    nextIs (run { base with cfg := { Config.t32 with xlen := .rv64 } } 0xC82023F3#32) (illegal 0xC82023F3#32) = true := by
  decide

/-- VI2: an exception from U-mode delegated to S-mode. -/
theorem test_delegated_exception_goes_to_supervisor_mode :
    nextIs (run { open' .U with mstatus := 0xB#64, medeleg := 4#64 } 0xC0001073#32) (fun t =>
      t.scause == 2#64 && t.sepc == 0x100#64 && t.stval == 0xC0001073#64 && t.mstatus == 0x29#64 && t.priv == .S &&
        t.pc == 0x900#64 && t.mcause == 0#64) = true := by
  decide

/-- VI10: the fetch of U-mode fails with every PMP entry OFF. -/
theorem test_fetch_fault :
    nextIs (step { base with priv := .U, mstatus := 8#64 }) (fun t =>
      t.mcause == 1#64 && t.mepc == 0x100#64 && t.mtval == 0x100#64 && t.mstatus == 0x80#64 && t.pc == 0x800#64) = true := by
  decide

/-- VJ18: the highest handling mode first. -/
theorem test_machine_timer_before_supervisor_external :
    nextIs (step { open' .S with mstatus := 2#64, mie := 0x282#64, mipSw := 2#64, mideleg := 0x222#64,
                                 env := { quietInputs with seip := true, mtip := true } }) (fun t =>
      t.mcause == 0x80000007#64 && t.mstatus == 0x802#64 && t.mepc == 0x100#64 && t.mtval == 0#64) = true := by
  decide

/-- VJ24: a user external interrupt vectored into U-mode. -/
theorem test_user_interrupt_vectored :
    nextIs (step { open' .U with mstatus := 1#64, mie := 0x111#64, mipSw := 0x11#64, mideleg := 0x111#64,
                                 sideleg := 0x111#64, utvec := 0xA01#64, env := { quietInputs with ueip := true } })
      (fun t => t.ucause == 0x80000008#64 && t.pc == 0xA20#64 && t.priv == .U) = true := by
  decide

/-- VK1: the source's own PMP example, an 8-byte access that entry 0 matches in part. -/
theorem test_pmp_partial_match_fails :
    let s := { base with pmpcfg := base.pmpcfg.set 0 0x17#8, pmpaddr := base.pmpaddr.set 0 3#64 }
    pmpCheck s 0x8 8 .load .M = .fail ∧ pmpCheck s 0xC 4 .load .U = .ok ∧ pmpCheck s 0x8 4 .load .U = .fail := by
  decide

/-! ## Witnesses: concrete states and operands that meet all the hypotheses of a statement together

One theorem per statement that has hypotheses, one conjunct per clause. -/

/-- Memory with the four bytes of a word at address `a`. -/
def wordAt (a : Nat) (w : InstrWord) : Memory := memWrite [] a (wordBytes w)

/-- A word stored at the pc where no interrupt is taken and the fetch is permitted. -/
def ready (w : InstrWord) : State := { base with mem := wordAt 0x100 w }

theorem ready_of (w : InstrWord) (h : pickInterrupt (ready w) = none ∧ pmpCheck (ready w) 0x100 4 .fetch .M = .ok) :
    Ready (ready w) w where
  nmi_quiet := rfl
  no_interrupt := h.1
  fetch_permitted := h.2
  word_present := by
    intro k hk
    have : k = 0 ∨ k = 1 ∨ k = 2 ∨ k = 3 := by omega
    rcases this with rfl | rfl | rfl | rfl <;> rfl

/-- A well-formed state in U-mode with a word at the pc, PMP entry 0 open and locked, entry 1 locked and TOR, and a machine
timer interrupt pending and enabled. -/
def busy : State :=
  { open' .U with
    mem := wordAt 0x100 0x00200073#32, mie := 0x80#64, env := { quietInputs with mtip := true }
    pmpcfg := (State.reset.pmpcfg.set 0 0x9F#8).set 1 0x8F#8 }

theorem wf_busy : Wf busy := by
  constructor <;>
    first
      | rfl
      | decide
      | (constructor <;> decide)
      | (unfold Fits; decide)

/-- A legal reset state of the test configuration with other values in the elements R372 leaves unspecified. -/
def afterReset : State :=
  { State.reset with
    mem := wordAt 0 0x340312F3#32, x := State.reset.x.set 6 0x1234#64, mepc := 0x200#64, mie := 0x888#64
    mcause := 0x80000007#64, pmpaddr := State.reset.pmpaddr.set 0 7#64, env := { quietInputs with mtip := true } }

theorem isReset_afterReset : IsReset afterReset := by
  constructor
  · constructor <;>
      first
        | rfl
        | decide
        | (constructor <;> decide)
          | (unfold Fits; decide)
  all_goals first | rfl | decide

/-- The legality of an access to a CSR that is no user counter. -/
theorem legal_of {s : State} {a : CsrAddr} {w : Bool} {r : Csr} (found : csrAt a = some r)
    (here : csrPresent s.cfg r = true) (mode : privLe (csrMinPriv r) s.priv = true)
    (writable : (w && csrReadOnly r) = false) (plain : csrCounterBit r = none)
    (time : (s.cfg.timeCsrTraps && (a == 0xC01#12 || a == 0xC81#12)) = false) : AccessLegal s a w r where
  found := found
  exists_here := here
  privileged := mode
  writable := by rintro ⟨rfl, h⟩; simp [h] at writable
  counter := by intro k hk; rw [plain] at hk; cases hk
  time := by rintro ⟨h1, h2⟩; rcases h2 with rfl | rfl <;> simp [h1] at time

theorem witness_EncodedInstructionsDecodeBack :
    (Instr.csrrs 31#5 0xC00#12 31#5).wellFormed = true ∧ (Instr.rdtimeh 31#5).wellFormed = true := by decide

theorem witness_DecodedWordsEncodeBack : decodeWord 0xFFFFFFF3#32 = .ok (.csrrci 31#5 0xFFF#12 31#5) := by decide

theorem witness_WordsOutsideTheTableAreRefused :
    (Ready (ready 0xFFFFFFFE#32) 0xFFFFFFFE#32 ∧ (0xFFFFFFFE#32).extractLsb' 0 2 ≠ 3#2) ∧
    (Ready (ready 0x00000073#32) 0x00000073#32 ∧ (0x00000073#32).extractLsb' 0 2 = 3#2 ∧ ¬MatchesTable 0x00000073#32) :=
  ⟨⟨ready_of _ (by decide), by decide⟩, ready_of _ (by decide), by decide, by unfold MatchesTable; decide⟩

/-- The platform scheduled for the coming step at time 1, and the inputs after it at time `t`. -/
def atTime (t : Nat) : State :=
  { base with env := { quietInputs with time := 1#64 }, scheduled := [{ quietInputs with time := BitVec.ofNat 64 t, meip := true }] }

/-- The last clause where the scheduled time goes back and is replaced, and where it goes on by the least amount. -/
theorem witness_StepRunsTheDecodedInstruction :
    (Ready (ready 0x340312F3#32) 0x340312F3#32 ∧ decodeWord 0x340312F3#32 = .ok (.csrrw 5#5 0x340#12 6#5)) ∧
    ((∃ next rest, (atTime 0).scheduled = next :: rest) ∧ (endStep (atTime 0)).env.time = 1#64) ∧
    (endStep (atTime 1)).env = { quietInputs with time := 1#64, meip := true } :=
  ⟨⟨ready_of _ (by decide), by decide⟩, ⟨⟨_, _, rfl⟩, by decide⟩, by decide⟩

theorem witness_StepTakesTheChosenInterrupt :
    busy.env.nmi = false ∧ pickInterrupt busy = some .machineTimer := by decide

/-- The second clause at the last byte of the word: three bytes present, the fourth absent. -/
theorem witness_FetchFailuresTrapOrRefuse :
    let fails := { base with priv := .U }
    let lacks := { base with mem := [(0x100, 0x73#8), (0x101, 0#8), (0x102, 0x20#8)] }
    (fails.env.nmi = false ∧ pickInterrupt fails = none ∧ pmpCheck fails fails.pc.toNat 4 .fetch fails.priv = .fail) ∧
    (lacks.env.nmi = false ∧ pickInterrupt lacks = none ∧ pmpCheck lacks lacks.pc.toNat 4 .fetch lacks.priv = .ok ∧
      ∃ k, k < 4 ∧ Memory.readByte lacks.mem (lacks.pc.toNat + k) = none) :=
  ⟨by decide, by decide, by decide, by decide, 3, by decide, by decide⟩

theorem witness_StepsNeverChangeMemory : ∃ t, step busy = .next t := by
  obtain ⟨t, ht, -⟩ := exists_next (o := step busy) (p := fun _ => true) (by decide)
  exact ⟨t, ht⟩

/-- A trapping instruction, one that completes, one that writes `minstret`, one that writes `minstreth`. -/
theorem witness_CompletedInstructionsRetireOnce :
    (∃ t, exec (.csrrw 0#5 0xC00#12 0#5) base = .next t ∧ t = raiseIllegal base (encode (.csrrw 0#5 0xC00#12 0#5))) ∧
    (∃ t, exec .mret base = .next t ∧ t ≠ raiseIllegal base (encode .mret) ∧
      ∀ a f, csrWriteOf base .mret = some (a, f) → a ≠ 0xB02#12 ∧ a ≠ 0xB82#12) ∧
    (∃ t f, exec (.csrrw 5#5 0xB02#12 0#5) base = .next t ∧
      t ≠ raiseIllegal base (encode (.csrrw 5#5 0xB02#12 0#5)) ∧
      csrWriteOf base (.csrrw 5#5 0xB02#12 0#5) = some (0xB02#12, f)) ∧
    (∃ t f, exec (.csrrw 5#5 0xB82#12 0#5) base = .next t ∧
      t ≠ raiseIllegal base (encode (.csrrw 5#5 0xB82#12 0#5)) ∧
      csrWriteOf base (.csrrw 5#5 0xB82#12 0#5) = some (0xB82#12, f)) := by
  have differs : ∀ {o : Host.Outcome State Fault Refusal} {u : State}, nextIs o (fun t => t.pc != u.pc) = true →
      ∃ t, o = .next t ∧ t ≠ u := by
    intro o u h
    obtain ⟨t, ht, hp⟩ := exists_next h
    exact ⟨t, ht, fun he => by simp [he] at hp⟩
  refine ⟨⟨_, rfl, rfl⟩, ?_, ?_, ?_⟩
  · obtain ⟨t, ht, hne⟩ := differs (o := exec .mret base) (u := raiseIllegal base (encode .mret)) (by decide)
    exact ⟨t, ht, hne, fun a f h => by simp [csrWriteOf] at h⟩
  · obtain ⟨t, ht, hne⟩ := differs (o := exec (.csrrw 5#5 0xB02#12 0#5) base)
      (u := raiseIllegal base (encode (.csrrw 5#5 0xB02#12 0#5))) (by decide)
    exact ⟨t, _, ht, hne, rfl⟩
  · obtain ⟨t, ht, hne⟩ := differs (o := exec (.csrrw 5#5 0xB82#12 0#5) base)
      (u := raiseIllegal base (encode (.csrrw 5#5 0xB82#12 0#5))) (by decide)
    exact ⟨t, _, ht, hne, rfl⟩

/-- Both refused executions: a write that would leave MPP = 2, and an MRET that would use it. -/
theorem witness_OnlyIllegalPreviousModesAreRefused :
    exec (.csrrw 0#5 0x300#12 6#5) { base with x := base.x.set 6 0x1000#64 } = .refused .illegalPreviousMode ∧
    exec .mret { base with mstatus := 0x1000#64 } = .refused .illegalPreviousMode := ⟨rfl, rfl⟩

/-- A plain CSR, and `mstatus` with an MPP that is allowed. -/
theorem witness_CsrrwSwapsRegisterAndCsr :
    AccessLegal base 0x340#12 true .mscratch ∧
    (AccessLegal base 0x300#12 true .mstatus ∧ mppLegal base.cfg (getMpp (readX base 6#5)) = true) :=
  ⟨legal_of rfl rfl rfl rfl rfl rfl, legal_of rfl rfl rfl rfl rfl rfl, by decide⟩

/-- A read of a read-only CSR, a write, and a write of `mstatus`. -/
theorem witness_CsrrsSetsBits :
    AccessLegal base 0xF11#12 ((0#5 : Reg) != 0#5) .mvendorid ∧ AccessLegal base 0x340#12 ((1#5 : Reg) != 0#5) .mscratch ∧
    (AccessLegal base 0x300#12 ((31#5 : Reg) != 0#5) .mstatus ∧
      mppLegal base.cfg (getMpp (csrRmwBase base .mstatus ||| readX base 31#5)) = true) :=
  ⟨legal_of rfl rfl rfl rfl rfl rfl, legal_of rfl rfl rfl rfl rfl rfl, legal_of rfl rfl rfl rfl rfl rfl, by decide⟩

theorem witness_CsrrcClearsBits :
    AccessLegal base 0xF11#12 ((0#5 : Reg) != 0#5) .mvendorid ∧ AccessLegal base 0x340#12 ((1#5 : Reg) != 0#5) .mscratch ∧
    (AccessLegal base 0x300#12 ((31#5 : Reg) != 0#5) .mstatus ∧
      mppLegal base.cfg (getMpp (csrRmwBase base .mstatus &&& ~~~readX base 31#5)) = true) :=
  ⟨legal_of rfl rfl rfl rfl rfl rfl, legal_of rfl rfl rfl rfl rfl rfl, legal_of rfl rfl rfl rfl rfl rfl, by decide⟩

/-- `zimm` = 0 without and with `CSRRWI_ZIMM0_WRITES`, and the largest immediate into `mstatus`. -/
theorem witness_CsrrwiWritesTheImmediate :
    let writing := { base with cfg := { Config.t32 with csrrwiZimm0Writes := true } }
    (AccessLegal base 0xF11#12 ((0#5 : Zimm) != 0#5 || base.cfg.csrrwiZimm0Writes) .mvendorid ∧
      base.cfg.csrrwiZimm0Writes = false) ∧
    (AccessLegal writing 0x340#12 ((0#5 : Zimm) != 0#5 || writing.cfg.csrrwiZimm0Writes) .mscratch ∧
      writing.cfg.csrrwiZimm0Writes = true) ∧
    (AccessLegal base 0x300#12 ((31#5 : Zimm) != 0#5 || base.cfg.csrrwiZimm0Writes) .mstatus ∧
      mppLegal base.cfg (getMpp ((31#5 : Zimm).setWidth 64)) = true) :=
  ⟨⟨legal_of rfl rfl rfl rfl rfl rfl, rfl⟩, ⟨legal_of rfl rfl rfl rfl rfl rfl, rfl⟩,
    legal_of rfl rfl rfl rfl rfl rfl, by decide⟩

theorem witness_CsrrsiSetsImmediateBits :
    AccessLegal base 0xF11#12 ((0#5 : Zimm) != 0#5) .mvendorid ∧
    (AccessLegal base 0x300#12 ((31#5 : Zimm) != 0#5) .mstatus ∧
      mppLegal base.cfg (getMpp (csrRmwBase base .mstatus ||| (31#5 : Zimm).setWidth 64)) = true) :=
  ⟨legal_of rfl rfl rfl rfl rfl rfl, legal_of rfl rfl rfl rfl rfl rfl, by decide⟩

theorem witness_CsrrciClearsImmediateBits :
    AccessLegal base 0xF11#12 ((0#5 : Zimm) != 0#5) .mvendorid ∧
    (AccessLegal base 0x300#12 ((31#5 : Zimm) != 0#5) .mstatus ∧
      mppLegal base.cfg (getMpp (csrRmwBase base .mstatus &&& ~~~(31#5 : Zimm).setWidth 64)) = true) :=
  ⟨legal_of rfl rfl rfl rfl rfl rfl, legal_of rfl rfl rfl rfl rfl rfl, by decide⟩

/-- One access for each of the five conditions of R28: a CSR that does not exist, one above the mode, a write of a read-only
one, a counter that is not enabled, and `time`. -/
theorem witness_IllegalCsrAccessesRaise :
    (csrUse base.cfg (.csrrs 5#5 0x123#12 0#5) = some (0x123#12, false) ∧ ¬∃ r, AccessLegal base 0x123#12 false r) ∧
    (csrUse busy.cfg (.csrrw 5#5 0x340#12 6#5) = some (0x340#12, true) ∧ ¬∃ r, AccessLegal busy 0x340#12 true r) ∧
    (csrUse base.cfg (.csrrwi 5#5 0xF11#12 1#5) = some (0xF11#12, true) ∧ ¬∃ r, AccessLegal base 0xF11#12 true r) ∧
    (csrUse busy.cfg (.rdcycle 5#5) = some (0xC00#12, false) ∧ ¬∃ r, AccessLegal busy 0xC00#12 false r) ∧
    (csrUse base.cfg (.rdtime 5#5) = some (0xC01#12, false) ∧ ¬∃ r, AccessLegal base 0xC01#12 false r) := by
  have known : ∀ {a : CsrAddr} {q r : Csr}, csrAt a = some q → csrAt a = some r → r = q := by
    intro a q r hq hr
    exact Option.some.inj (hr.symm.trans hq)
  refine ⟨⟨rfl, ?_⟩, ⟨rfl, ?_⟩, ⟨rfl, ?_⟩, ⟨rfl, ?_⟩, rfl, ?_⟩
  · rintro ⟨r, h⟩
    exact absurd (h.found.symm.trans (show csrAt 0x123#12 = none from by decide)) (by simp)
  · rintro ⟨r, h⟩
    obtain rfl := known (q := .mscratch) (by decide) h.found
    exact absurd h.privileged (by decide)
  · rintro ⟨r, h⟩
    obtain rfl := known (q := .mvendorid) (by decide) h.found
    exact h.writable (by decide)
  · rintro ⟨r, h⟩
    obtain rfl := known (q := .cycle) (by decide) h.found
    exact absurd (h.counter 0 rfl) (by decide)
  · rintro ⟨r, h⟩
    exact h.time (by decide)

/-- A completed access that writes and one that only reads. -/
theorem witness_CsrInstructionsChangeOnlyTheirTargets :
    (csrUse base.cfg (.csrrw 5#5 0x340#12 6#5) = some (0x340#12, true) ∧ AccessLegal base 0x340#12 true .mscratch ∧
      ∃ t, exec (.csrrw 5#5 0x340#12 6#5) base = .next t) ∧
    (csrUse base.cfg (.csrrsi 0#5 0xF11#12 0#5) = some (0xF11#12, false) ∧ AccessLegal base 0xF11#12 false .mvendorid ∧
      ∃ t, exec (.csrrsi 0#5 0xF11#12 0#5) base = .next t) :=
  ⟨⟨rfl, legal_of rfl rfl rfl rfl rfl rfl, _, rfl⟩, rfl, legal_of rfl rfl rfl rfl rfl rfl, _, rfl⟩

theorem witness_ReadOnlyCsrsAreNeverWritten :
    csrReadOnly .mvendorid = true ∧ AccessLegal base (csrAddress .mvendorid) false .mvendorid :=
  ⟨rfl, legal_of rfl rfl rfl rfl rfl rfl⟩

theorem witness_CsrWritesReachOnlyTheirCell :
    (∃ t, csrWrite base .mideleg 0x222#64 = .next t) ∧ ∃ t, csrWrite base .mstatus 0x1800#64 = .next t :=
  ⟨⟨_, rfl⟩, _, rfl⟩

/-- One register of each of the four clauses, and each counter half, written with all ones. -/
theorem witness_RegistersReadBackTheirLegalValue :
    (∃ t, csrWrite base .mscratch (BitVec.allOnes 64) = .next t) ∧ (∃ t, csrWrite base .utvec (BitVec.allOnes 64) = .next t) ∧
    (∃ t, csrWrite base .sepc (BitVec.allOnes 64) = .next t) ∧ (∃ t, csrWrite base .scounteren (BitVec.allOnes 64) = .next t) ∧
    ∀ r : Csr, r = .mcycle ∨ r = .minstret ∨ r = .mcycleh ∨ r = .minstreth →
      ∃ t, csrWrite base r (BitVec.allOnes 64) = .next t := by
  refine ⟨⟨_, rfl⟩, ⟨_, rfl⟩, ⟨_, rfl⟩, ⟨_, rfl⟩, ?_⟩
  rintro r (rfl | rfl | rfl | rfl) <;> exact ⟨_, rfl⟩

theorem witness_DelegationAndEnableRegistersStoreTheirBits :
    Wf busy ∧ ∀ r : Csr, r = .medeleg ∨ r = .sedeleg ∨ r = .sideleg ∨ r = .mideleg ∨ r = .mie ∨ r = .mip →
      ∃ t, csrWrite busy r (BitVec.allOnes 64) = .next t := by
  refine ⟨wf_busy, ?_⟩
  rintro r (rfl | rfl | rfl | rfl | rfl | rfl) <;> exact ⟨_, rfl⟩

/-- The read on each side of the width of XLEN = 32, and the write. -/
theorem witness_MstatusReadsAndWritesItsStoredBits :
    (Wf busy ∧ MstatusStores busy.cfg 19 ∧ ¬MstatusStores busy.cfg 33) ∧
    ∃ t, csrWrite base .mstatus (BitVec.allOnes 64) = .next t :=
  ⟨⟨wf_busy, by decide, by decide⟩, _, rfl⟩

/-- R51: SXL and UXL read 2 for XLEN = 64 with S-mode and U-mode. -/
theorem test_mstatus_of_rv64_shows_sxl_and_uxl :
    csrRead { base with cfg := { Config.t32 with xlen := .rv64 } } .mstatus = 0xA00000000#64 := by decide

theorem witness_StatusViewsWriteOnlyTheirBits :
    (∃ t, csrWrite base .sstatus (BitVec.allOnes 64) = .next t) ∧ ∃ t, csrWrite base .ustatus (BitVec.allOnes 64) = .next t :=
  ⟨⟨_, rfl⟩, _, rfl⟩

/-- A write through each view, and a bit that each view shows. -/
theorem witness_InterruptViewsShowAndWriteOnlyDelegatedBits :
    (∀ r : Csr, r = .sie ∨ r = .uie ∨ r = .sip ∨ r = .uip → ∃ t, csrWrite base r (BitVec.allOnes 64) = .next t) ∧
    InSupervisorView { base with mideleg := 0x333#64 } 9 ∧
    InUserView { base with mideleg := 0x333#64, sideleg := 0x111#64 } 8 := by
  refine ⟨?_, by decide, by decide⟩
  rintro r (rfl | rfl | rfl | rfl) <;> exact ⟨_, rfl⟩

/-- CSRRS of `mip` while the controller asserts SEIP and while it does not. -/
theorem witness_InputsAreNeverLatchedIntoSoftwareBits :
    (∃ t, exec (.csrrs 5#5 0x344#12 6#5) base = .next t) ∧
    ∃ t, exec (.csrrs 5#5 0x344#12 6#5) { base with env := { quietInputs with seip := true } } = .next t :=
  ⟨⟨_, rfl⟩, _, rfl⟩

theorem witness_IdentityRegistersAreConstant :
    base.cfg.jedecBank = 10 ∧ base.cfg.jedecManufacturerId = 0x6E#8 ∧ 25 < 26 := by decide

theorem witness_HartIdAlwaysReadsZero : base.priv = .M := rfl

/-- The largest interrupt and exception codes of the table. -/
theorem witness_ListedCausesReadBack :
    (causeListed base.cfg (truncXlen base.cfg 0x8000000B#64) = true ∧ ∃ t, csrWrite base .mcause 0x8000000B#64 = .next t) ∧
    (causeListed base.cfg (truncXlen base.cfg 15#64) = true ∧ ∃ t, csrWrite base .ucause 15#64 = .next t) :=
  ⟨⟨by decide, _, rfl⟩, by decide, _, rfl⟩

theorem witness_PerformanceCountersReadZeroAndIgnoreWrites :
    (base.priv = .M ∧ base.cfg.xlen = .rv32) ∧ (Wf busy ∧ busy.priv ≠ .M) := ⟨⟨rfl, rfl⟩, wf_busy, by decide⟩

/-- The last byte of the last register. -/
theorem witness_PmpcfgCsrsPackTheirBytes :
    (15 : Fin 16).val = 4 * (3 : Fin 4).val + 3 ∧ 3 < (if base.cfg.xlen = .rv32 then 4 else 8) := by decide

/-- The counters are enabled in M-mode, and in U-mode by both registers. -/
theorem witness_CounterReadsGiveTheLowBits :
    (CounterEnabled timed 0 ∧ CounterEnabled timed 1 ∧ CounterEnabled timed 2 ∧ timed.cfg.timeCsrTraps = false) ∧
    CounterEnabled { timed with priv := .U, mcounteren := 7#32, scounteren := 7#32 } 1 := by
  unfold CounterEnabled; decide

theorem witness_HighCounterReadsGiveTheHighBits :
    timed.cfg.xlen = .rv32 ∧ CounterEnabled timed 0 ∧ CounterEnabled timed 1 ∧ CounterEnabled timed 2 ∧
    timed.cfg.timeCsrTraps = false := by
  unfold CounterEnabled; decide

/-- `time` trapping; XLEN = 64; the enable bits clear in U-mode, and set in one of the two registers only. -/
theorem witness_ForbiddenCounterReadsRaise :
    base.cfg.timeCsrTraps = true ∧ { base.cfg with xlen := .rv64 }.xlen = .rv64 ∧
    ¬CounterEnabled { base with priv := .U } 0 ∧ ¬CounterEnabled { base with priv := .U, mcounteren := 7#32 } 2 := by
  unfold CounterEnabled; decide

/-- Into each of the three modes. -/
theorem witness_MretReturnsToThePreviousMode :
    base.priv = .M ∧ modeOfCode base.cfg (getMpp base.mstatus) = some .U ∧
    modeOfCode base.cfg (getMpp { base with mstatus := 0x800#64 }.mstatus) = some .S ∧
    modeOfCode base.cfg (getMpp { base with mstatus := 0x1800#64 }.mstatus) = some .M := by decide

theorem witness_SretReturnsToThePreviousMode :
    base.cfg.hasS = true ∧ (base.priv = .S ∨ base.priv = .M) := by decide

theorem witness_UretReturnsToUserMode : base.cfg.hasN = true := rfl

theorem witness_IllegalReturnsRaise :
    (open' .S).priv ≠ .M ∧ (open' .U).priv = .U ∧ { Config.t32 with hasS := false }.hasS = false ∧
    { Config.t32 with hasN := false }.hasN = false := by decide

/-- One trap handled in each mode. -/
theorem witness_TrapEntrySavesAndVectors :
    trapHandler busy (.exception .illegalInstruction) = .M ∧
    trapHandler { busy with medeleg := 4#64 } (.exception .illegalInstruction) = .S ∧
    trapHandler { busy with mideleg := 1#64, sideleg := 1#64 } (.interrupt .userSoftware) = .U := by decide

theorem witness_TrapsVectorToBaseOrBasePlusFourTimesCause :
    (0x800#64).extractLsb' 0 2 ≠ 1#2 ∧ (0xFFFFFFFD#64).extractLsb' 0 2 = 1#2 := by decide

theorem witness_TrapsNeverLowerThePrivilege : Wf busy ∧ pickInterrupt busy = some .machineTimer :=
  ⟨wf_busy, by decide⟩

theorem witness_PendingBitsComeFromInputsAndSoftware : Wf busy := wf_busy

theorem witness_TheHighestPriorityInterruptIsTaken :
    pickInterrupt busy = some .machineTimer ∧ takeable busy .machineTimer = true := by decide

/-- Entry 0 shares every byte with the fetch at 0x100; with every entry OFF none does. -/
theorem witness_PmpVerdictFollowsTheFirstMatch :
    ((0 : Fin 16).val < busy.cfg.pmpCnt.val ∧ (pmpRegion busy 0).1 ≤ 0x100 ∧ 0x100 < (pmpRegion busy 0).2) ∧
    ∀ i : Fin 16, ¬∃ b, 0x100 ≤ b ∧ b < 0x100 + 4 ∧ (pmpRegion base i).1 ≤ b ∧ b < (pmpRegion base i).2 := by
  refine ⟨by decide, fun i => ?_⟩
  have h : ∀ j : Fin 16, (pmpRegion base j).2 = 0 := by decide
  rintro ⟨b, -, -, -, hb⟩
  rw [h i] at hb
  exact absurd hb (Nat.not_lt_zero b)

/-- Each of the four modes, NAPOT at both ends of its range. -/
theorem witness_PmpRegionsFollowTheirMode :
    base.pmpcfg[(0 : Fin 16)].extractLsb' 3 2 = 0#2 ∧ (0x08#8).extractLsb' 3 2 = 1#2 ∧ (0x10#8).extractLsb' 3 2 = 2#2 ∧
    (open' .U).pmpcfg[(0 : Fin 16)].extractLsb' 3 2 = 3#2 ∧ pmpRegion (open' .U) 0 = (0, 2 ^ 35) ∧
    pmpRegion { open' .U with pmpaddr := State.reset.pmpaddr } 0 = (0, 8) := by decide

theorem witness_MprvSelectsTheAccessPrivilege :
    base.mstatus.getLsbD 17 = false ∧
    ({ base with mstatus := 0x21000#64 }.mstatus.getLsbD 17 = true ∧
      modeOfCode base.cfg (getMpp { base with mstatus := 0x21000#64 }.mstatus) = none) ∧
    ({ base with mstatus := 0x21800#64 }.mstatus.getLsbD 17 = true ∧ hasMode base.cfg .M = true ∧
      getMpp { base with mstatus := 0x21800#64 }.mstatus = privCode .M) := by decide

/-- A store that is permitted where memory is present, and one that is not permitted. -/
theorem witness_CheckedAccessesObeyThePmp :
    let here := ready 0x340312F3#32
    (effectivePriv here .store = some .M ∧ pmpCheck here 0x102 2 .store .M = .ok ∧
      ∀ k, k < 2 → (Memory.readByte here.mem (0x102 + k)).isSome = true) ∧
    (effectivePriv { base with priv := .U } .store = some .U ∧
      pmpCheck { base with priv := .U } 0x100 4 .store .U = .fail ∧
      pmpCheck { base with priv := .U } 0x100 4 .load .U = .fail) := by decide

theorem witness_ResetLeavesALegalState : { Config.t32 with xlen := .rv64, hasS := false, hasN := false, hasU := false }.Legal := by
  constructor <;> decide

theorem witness_TheFirstInstructionRunsFromAnyReset :
    IsReset afterReset ∧ HoldsWord afterReset.mem afterReset.cfg.pcInit.toNat 0x340312F3#32 ∧
    decodeWord 0x340312F3#32 = .ok (.csrrw 5#5 0x340#12 6#5) :=
  ⟨isReset_afterReset, by unfold HoldsWord; decide, by decide⟩

theorem witness_EveryStepKeepsTheStateWellFormed : Wf busy ∧ ∃ t, step busy = .next t :=
  ⟨wf_busy, witness_StepsNeverChangeMemory⟩

/-- Entry 0 of `busy` is locked, and so is entry 1, in TOR mode. -/
theorem witness_LockedPmpEntriesNeverChange :
    (∃ t, step busy = .next t) ∧ busy.pmpcfg[(0 : Fin 16)].getLsbD 7 = true ∧
    ((1 : Fin 16).val = (0 : Fin 16).val + 1 ∧ busy.pmpcfg[(1 : Fin 16)].getLsbD 7 = true ∧
      busy.pmpcfg[(1 : Fin 16)].extractLsb' 3 2 = 1#2) :=
  ⟨witness_StepsNeverChangeMemory, by decide, by decide, by decide, by decide⟩

theorem witness_MachineControlChangesOnlyInMachineMode : (∃ t, step busy = .next t) ∧ busy.priv ≠ .M :=
  ⟨witness_StepsNeverChangeMemory, by decide⟩

/-- An instruction that raises, one that returns, one that accesses a CSR. -/
theorem witness_PrivilegeRisesByTrapsAndFallsByReturns :
    Wf busy ∧ (∃ t, exec .mret busy = .next t) ∧ (∃ t, exec .uret busy = .next t) ∧
    ∃ t, exec (.csrrw 5#5 0x040#12 6#5) busy = .next t :=
  ⟨wf_busy, ⟨_, rfl⟩, ⟨_, rfl⟩, _, rfl⟩

/-- A step below M-mode that answers a next state, one that fetches an instruction, and one that is refused. -/
theorem witness_LowerModesLearnNothingOfMachineTrapRegisters :
    (busy.priv ≠ .M ∧ ∃ t, step busy = .next t) ∧
    (∃ t, step { busy with mie := 0#64 } = .next t) ∧
    (open' .S).priv ≠ .M ∧ step (open' .S) = .refused .absentMemory := by
  refine ⟨⟨by decide, witness_StepsNeverChangeMemory⟩, ?_, by decide, rfl⟩
  obtain ⟨t, ht, -⟩ := exists_next (o := step { busy with mie := 0#64 }) (p := fun t => t.pc == 0#64) (by decide)
  exact ⟨t, ht⟩

end Sys2Proof.Tests
end

section
/-! Bit-level rules of the register operations: which bits the legal values of Machine/Flags.lean and the stored-bit masks hold. -/

namespace Sys2Proof.Machine

/-! ### Constants as sets of bit positions -/

/-- A 64-bit constant has exactly the bits of a list when this holds of the positions below 64. -/
theorem getLsbD_eq_any (w : Word) (l : List Nat) (h : ∀ k : Fin 64, w.getLsbD k = l.any (k.val == ·))
    (hl : l.all (· < 64) = true) (n : Nat) : w.getLsbD n = l.any (n == ·) := by
  by_cases hn : n < 64
  · exact h ⟨n, hn⟩
  · rw [BitVec.getLsbD_of_ge w n (by omega), eq_comm, List.any_eq_false]
    intro k hk
    have := List.all_eq_true.mp hl k hk
    simp only [decide_eq_true_eq] at this
    simp only [beq_iff_eq]
    omega

theorem getLsbD_machineLevelBits (n : Nat) : (0x888#64).getLsbD n = (n == 3 || n == 7 || n == 11) := by
  simpa [Bool.or_assoc] using getLsbD_eq_any 0x888#64 [3, 7, 11] (by decide) (by decide) n

theorem getLsbD_supervisorLevelBits (n : Nat) : (0x222#64).getLsbD n = (n == 1 || n == 5 || n == 9) := by
  simpa [Bool.or_assoc] using getLsbD_eq_any 0x222#64 [1, 5, 9] (by decide) (by decide) n

theorem getLsbD_userLevelBits (n : Nat) : (0x111#64).getLsbD n = (n == 0 || n == 4 || n == 8) := by
  simpa [Bool.or_assoc] using getLsbD_eq_any 0x111#64 [0, 4, 8] (by decide) (by decide) n

theorem getLsbD_supervisorViewBits (n : Nat) :
    (0x333#64).getLsbD n = (n == 0 || n == 1 || n == 4 || n == 5 || n == 8 || n == 9) := by
  simpa [Bool.or_assoc] using getLsbD_eq_any 0x333#64 [0, 1, 4, 5, 8, 9] (by decide) (by decide) n

theorem getLsbD_machineStatusBits (n : Nat) : (0x1888#64).getLsbD n = (n == 3 || n == 7 || n == 11 || n == 12) := by
  simpa [Bool.or_assoc] using getLsbD_eq_any 0x1888#64 [3, 7, 11, 12] (by decide) (by decide) n

theorem getLsbD_supervisorStatusBits (n : Nat) :
    (0xC0122#64).getLsbD n = (n == 1 || n == 5 || n == 8 || n == 18 || n == 19) := by
  simpa [Bool.or_assoc] using getLsbD_eq_any 0xC0122#64 [1, 5, 8, 18, 19] (by decide) (by decide) n

theorem getLsbD_userStatusBits (n : Nat) : (0x11#64).getLsbD n = (n == 0 || n == 4) := by
  simpa [Bool.or_assoc] using getLsbD_eq_any 0x11#64 [0, 4] (by decide) (by decide) n

theorem getLsbD_mprvBit (n : Nat) : (0x20000#64).getLsbD n = (n == 17) := by
  simpa [Bool.or_assoc] using getLsbD_eq_any 0x20000#64 [17] (by decide) (by decide) n

theorem getLsbD_machinePendingBits (n : Nat) :
    (0x800#64).getLsbD n = (n == 11) ∧ (0x80#64).getLsbD n = (n == 7) ∧ (0x8#64).getLsbD n = (n == 3) :=
  ⟨by simpa using getLsbD_eq_any 0x800#64 [11] (by decide) (by decide) n,
    by simpa using getLsbD_eq_any 0x80#64 [7] (by decide) (by decide) n,
    by simpa using getLsbD_eq_any 0x8#64 [3] (by decide) (by decide) n⟩

theorem getLsbD_controllerBits (n : Nat) : (0x200#64).getLsbD n = (n == 9) ∧ (0x100#64).getLsbD n = (n == 8) :=
  ⟨by simpa using getLsbD_eq_any 0x200#64 [9] (by decide) (by decide) n,
    by simpa using getLsbD_eq_any 0x100#64 [8] (by decide) (by decide) n⟩

/-! ### The stored-bit masks -/

/-- The stored bits of `mstatus` are those of the table of 10_state.md R56. -/
theorem getLsbD_mstatusMask (c : Config) (n : Nat) : (mstatusMask c).getLsbD n = decide (MstatusStores c n) := by
  have order : mstatusMask c =
      0x1888#64 ||| (maskIf c.hasU 0x20000#64 ||| (maskIf c.hasS 0xC0122#64 ||| maskIf c.hasN 0x11#64)) := by
    rw [mstatusMask, BitVec.or_comm (_ ||| _) (maskIf c.hasU _), BitVec.or_assoc 0x1888#64, ← BitVec.or_assoc,
      BitVec.or_comm (maskIf c.hasU _) 0x1888#64, BitVec.or_assoc]
  rw [order, Bool.eq_iff_iff]
  simp only [BitVec.getLsbD_or, getLsbD_maskIf, getLsbD_machineStatusBits, getLsbD_supervisorStatusBits,
    getLsbD_userStatusBits, getLsbD_mprvBit, MstatusStores, Bool.or_eq_true, Bool.and_eq_true, beq_iff_eq, decide_eq_true_eq,
    or_assoc]

/-- The interrupts of the implemented lower levels: the bits of `mideleg` and `mip_sw` (10_state.md R60, R63). -/
theorem getLsbD_midelegMask (c : Config) (n : Nat) : (midelegMask c).getLsbD n =
    ((c.hasS && (n == 1 || n == 5 || n == 9)) || (c.hasN && (n == 0 || n == 4 || n == 8))) := by
  simp only [midelegMask, BitVec.getLsbD_or, getLsbD_maskIf, getLsbD_supervisorLevelBits, getLsbD_userLevelBits]

theorem mipSwMask_eq_midelegMask (c : Config) : mipSwMask c = midelegMask c := rfl

theorem getLsbD_mieMask (c : Config) (n : Nat) : (mieMask c).getLsbD n =
    ((n == 3 || n == 7 || n == 11) || (c.hasS && (n == 1 || n == 5 || n == 9)) ||
      (c.hasN && (n == 0 || n == 4 || n == 8))) := by
  simp only [mieMask, BitVec.getLsbD_or, getLsbD_maskIf, getLsbD_machineLevelBits, getLsbD_supervisorLevelBits,
    getLsbD_userLevelBits]

/-- The bits that a register within a mask can hold. -/
theorem Within.mask_of_bit {v mask : Word} (h : Within v mask) {n : Nat} (hn : v.getLsbD n = true) :
    mask.getLsbD n = true :=
  (within_iff v mask).mp h n hn

/-- A bit outside the mask reads 0. -/
theorem Within.bit_eq_false {v mask : Word} (h : Within v mask) {n : Nat} (hn : mask.getLsbD n = false) :
    v.getLsbD n = false := by
  cases hv : v.getLsbD n with
  | false => rfl
  | true => rw [h.mask_of_bit hv] at hn; cases hn

/-- A write through the whole mask of a register that stays within it gives the written bits of the mask. -/
theorem mergeBits_of_within {old v mask : Word} (h : Within old mask) : mergeBits old v mask = v &&& mask := by
  unfold Within at h
  simp only [mergeBits, h, BitVec.zero_or]

/-! ### Legal values -/

theorem getLsbD_tvecLegal (c : Config) (v : Word) (n : Nat) :
    (tvecLegal c v).getLsbD n = (decide (n < c.xlen.bits) && decide (n ≠ 1) && v.getLsbD n) := by
  have hbit : (2#64).getLsbD n = (n == 1) := by simpa using getLsbD_eq_any 2#64 [1] (by decide) (by decide) n
  simp only [tvecLegal, BitVec.getLsbD_and, BitVec.getLsbD_not, getLsbD_truncXlen, hbit]
  cases hv : v.getLsbD n with
  | false => simp
  | true => have := BitVec.lt_of_getLsbD hv; by_cases h1 : n = 1 <;> simp [h1, this]

theorem getLsbD_epcLegal (c : Config) (v : Word) (n : Nat) :
    (epcLegal c v).getLsbD n =
      (decide (n < c.xlen.bits) && decide (n ≠ 0) && (decide (n ≠ 1) || c.hasRvc) && v.getLsbD n) := by
  have hone : (1#64).getLsbD n = (n == 0) := by simpa using getLsbD_eq_any 1#64 [0] (by decide) (by decide) n
  have hthree : (3#64).getLsbD n = (n == 0 || n == 1) := by
    simpa using getLsbD_eq_any 3#64 [0, 1] (by decide) (by decide) n
  have hlow : (if c.hasRvc then 1#64 else 3#64).getLsbD n = (n == 0 || (n == 1 && !c.hasRvc)) := by
    cases c.hasRvc
    · simpa using hthree
    · simpa using hone
  simp only [epcLegal, BitVec.getLsbD_and, BitVec.getLsbD_not, getLsbD_truncXlen, hlow]
  cases hv : v.getLsbD n with
  | false => simp
  | true => have := BitVec.lt_of_getLsbD hv; by_cases h0 : n = 0 <;> by_cases h1 : n = 1 <;> simp [h0, h1, this]

/-- A value fits in XLEN bits exactly when it has no bit from XLEN up. -/
theorem fits_iff (c : Config) (v : Word) : Fits c v ↔ ∀ n, v.getLsbD n = true → n < c.xlen.bits := by
  unfold Fits
  constructor
  · intro h n hn
    rw [← h, getLsbD_truncXlen, Bool.and_eq_true, decide_eq_true_eq] at hn
    exact hn.1
  · intro h
    refine BitVec.eq_of_getLsbD_eq fun n _ => ?_
    rw [getLsbD_truncXlen]
    cases hv : v.getLsbD n with
    | false => simp
    | true => simp [h n hv]

/-- An exception pc or pc is legal exactly when it fits and its hardwired low bits are 0 (10_state.md R69). -/
theorem epcLegal_eq_self_iff (c : Config) (v : Word) :
    epcLegal c v = v ↔ Fits c v ∧ v.getLsbD 0 = false ∧ (c.hasRvc = false → v.getLsbD 1 = false) := by
  rw [fits_iff]
  constructor
  · intro h
    have hbit := fun n => (congrArg (BitVec.getLsbD · n) h).symm
    simp only [getLsbD_epcLegal] at hbit
    refine ⟨fun n hn => ?_, by rw [hbit]; simp, fun hr => by rw [hbit, hr]; simp⟩
    rw [hbit] at hn
    simp only [Bool.and_eq_true, decide_eq_true_eq] at hn
    exact hn.1.1.1
  · rintro ⟨hfits, h0, h1⟩
    refine BitVec.eq_of_getLsbD_eq fun n _ => ?_
    rw [getLsbD_epcLegal]
    cases hv : v.getLsbD n with
    | false => simp
    | true =>
      have hn0 : n ≠ 0 := by rintro rfl; rw [h0] at hv; cases hv
      have hn1 : n = 1 → c.hasRvc = true := by rintro rfl; by_contra hr; rw [h1 (by simpa using hr)] at hv; cases hv
      by_cases hn : n = 1
      · simp [hn, hn1 hn, hn ▸ hfits n hv]
      · simp [hfits n hv, hn0, hn]

@[simp] theorem fits_truncXlen (c : Config) (v : Word) : Fits c (truncXlen c v) := truncXlen_idem c v

/-- The value modulo 4 is the two low bits. -/
theorem mod_four_eq_iff (v w : Word) : v.toNat % 4 = w.toNat % 4 ↔ ∀ n, n < 2 → v.getLsbD n = w.getLsbD n := by
  have hbit : ∀ (u : Word) (n : Nat), (u.toNat % 4).testBit n = (decide (n < 2) && u.getLsbD n) := fun u n => by
    rw [show (4 : Nat) = 2 ^ 2 from rfl, Nat.testBit_mod_two_pow, BitVec.testBit_toNat]
  constructor
  · intro h n hn
    have key := congrArg (Nat.testBit · n) h
    simpa only [hbit, hn, decide_true, Bool.true_and] using key
  · intro h
    refine Nat.eq_of_testBit_eq fun n => ?_
    rw [hbit, hbit]
    by_cases hn : n < 2
    · rw [h n hn]
    · simp [hn]

/-- Truncation to XLEN bits keeps the value modulo 4. -/
theorem truncXlen_mod_four (c : Config) (v : Word) : (truncXlen c v).toNat % 4 = v.toNat % 4 := by
  unfold truncXlen
  cases c.xlen with
  | rv32 =>
    have hmask : (0xFFFFFFFF#64).toNat = 2 ^ 32 - 1 := by decide
    simp only [BitVec.toNat_and, hmask, Nat.and_two_pow_sub_one_eq_mod]
    omega
  | rv64 => rfl

/-- The pc of the next instruction is aligned as the pc is (10_state.md R21). -/
theorem epcLegal_pc_add_four {c : Config} {pc : Word} (h : epcLegal c pc = pc) :
    epcLegal c (truncXlen c (pc + 4#64)) = truncXlen c (pc + 4#64) := by
  obtain ⟨-, h0, h1⟩ := (epcLegal_eq_self_iff c pc).mp h
  have hmod : (truncXlen c (pc + 4#64)).toNat % 4 = pc.toNat % 4 := by
    rw [truncXlen_mod_four, BitVec.toNat_add, BitVec.toNat_ofNat]; omega
  refine (epcLegal_eq_self_iff _ _).mpr ⟨fits_truncXlen _ _, ?_, fun hr => ?_⟩
  · rw [(mod_four_eq_iff _ _).mp hmod 0 (by omega), h0]
  · rw [(mod_four_eq_iff _ _).mp hmod 1 (by omega), h1 hr]

/-- A multiple of 4 that fits is a legal pc in every configuration. -/
theorem epcLegal_of_mod_four {c : Config} {v : Word} (hfits : Fits c v) (h : v.toNat % 4 = 0) : epcLegal c v = v := by
  have hlow : ∀ n, n < 2 → v.getLsbD n = false := fun n hn => by
    rw [(mod_four_eq_iff v 0#64).mp (by simpa using h) n hn, BitVec.getLsbD_zero]
  exact (epcLegal_eq_self_iff _ _).mpr ⟨hfits, hlow 0 (by omega), fun _ => hlow 1 (by omega)⟩

/-- Clearing the two low bits gives a multiple of 4. -/
theorem and_not_three_mod_four (v : Word) : (v &&& ~~~3#64).toNat % 4 = 0 := by
  refine (mod_four_eq_iff _ 0#64).mpr fun n hn => ?_
  have hthree : (3#64).getLsbD n = true := by
    obtain rfl | rfl : n = 0 ∨ n = 1 := by omega
    · rfl
    · rfl
  rw [BitVec.getLsbD_and, BitVec.getLsbD_not, hthree, BitVec.getLsbD_zero]
  simp

/-- A trap vector is a legal pc in every configuration (60_exceptions.md R321). -/
theorem epcLegal_trapVector (c : Config) (tvec : Word) (t : TrapCause) :
    epcLegal c (trapVector c tvec t) = trapVector c tvec t := by
  have hbase : Fits c (truncXlen c tvec &&& ~~~3#64) := by
    rw [fits_iff]
    intro n hn
    rw [BitVec.getLsbD_and, getLsbD_truncXlen, Bool.and_eq_true, Bool.and_eq_true, decide_eq_true_eq] at hn
    exact hn.1.1
  have hmod := and_not_three_mod_four (truncXlen c tvec)
  unfold trapVector
  cases t with
  | exception e => exact epcLegal_of_mod_four hbase hmod
  | interrupt i =>
    simp only
    split
    · refine epcLegal_of_mod_four (fits_truncXlen _ _) ?_
      rw [truncXlen_mod_four, BitVec.toNat_add, BitVec.toNat_ofNat]
      omega
    · exact epcLegal_of_mod_four hbase hmod

end Sys2Proof.Machine
end

section
/-! The CSR file as cells: what a read depends on, what a write reaches, when an access is legal, and the common form of the
twelve CSR instructions. -/

namespace Sys2Proof.Machine

/-! ### Reads and writes by cells -/

/-- A CSR read depends only on the cells it looks at, the parameters, the inputs and the step number (10_state.md R29). -/
theorem csrRead_congr {s t : State} {q : Csr} (hcfg : t.cfg = s.cfg) (henv : t.env = s.env) (htick : t.tick = s.tick)
    (h : ∀ c ∈ cellsRead q, cellValue t c = cellValue s c) : csrRead t q = csrRead s q := by
  cases q
  case pmpcfg k =>
    have hcells : t.pmpcfg.toList.map (·.setWidth 64) = s.pmpcfg.toList.map (·.setWidth 64) := h .pmpcfg (by simp [cellsRead])
    have hinj : Function.Injective (fun b : BitVec 8 => b.setWidth 64) := fun a b hab => by
      have := congrArg (BitVec.setWidth 8) hab
      simpa using this
    have hvec : t.pmpcfg = s.pmpcfg := Vector.toList_inj.mp (List.map_injective_iff.mpr hinj hcells)
    simp only [csrRead, hvec, hcfg]
  case pmpaddr i =>
    have hcells : t.pmpaddr.toList = s.pmpaddr.toList := h .pmpaddr (by simp [cellsRead])
    simp only [csrRead, Vector.toList_inj.mp hcells]
  case mvendorid | marchid | mimpid | mhartid | misa | time | timeh => simp only [csrRead, hcfg, henv]
  case mhpmcounter | mhpmcounterh | mhpevent | hpmcounter | hpmcounterh => rfl
  all_goals
    simp only [cellsRead, List.forall_mem_cons, List.not_mem_nil, IsEmpty.forall_iff, implies_true, and_true] at h
    simp only [cellValue, List.cons.injEq, and_true] at h
    simp only [csrRead, mstatusRead, mipRead, machinePending, controllerPending, supervisorVisible, userVisible, causeRead,
      hcfg, henv, htick, h]

/-- A CSR write changes no cell but the one behind its CSR (10_state.md R30). -/
theorem csrWrite_cellValue {s t : State} {r : Csr} {v : Word} (h : csrWrite s r v = .next t) {c : Cell}
    (hc : cellWritten r ≠ some c) : cellValue t c = cellValue s c := by
  cases r
  case mstatus =>
    simp only [csrWrite, mstatusWrite] at h
    split at h
    · cases h; cases c <;> first | exact rfl | exact absurd rfl hc
    · cases h
  case misa | mhpmcounter | mhpmcounterh | mhpevent | mvendorid | marchid | mimpid | mhartid | scause | stval => cases h; rfl
  case cycle | time | instret | hpmcounter | cycleh | timeh | instreth | hpmcounterh => cases h; rfl
  all_goals (cases h; cases c <;> first | exact rfl | exact absurd rfl hc)

/-- A CSR that does not show the written cell reads as before (10_state.md R30). -/
theorem csrRead_csrWrite_other {s t : State} {r q : Csr} {v : Word} (h : csrWrite s r v = .next t)
    (hq : ∀ c, cellWritten r = some c → c ∉ cellsRead q) : csrRead t q = csrRead s q := by
  have keeps := csrWrite_keeps h
  exact csrRead_congr keeps.cfg keeps.env keeps.tick fun c hc => csrWrite_cellValue h fun hw => hq c hw hc

/-- A write of a CSR other than `minstret` and `minstreth` leaves the retirement count (10_state.md R75). -/
theorem csrWrite_minstret {s t : State} {r : Csr} {v : Word} (h : csrWrite s r v = .next t) (hr : csrIsInstret r = false) :
    t.minstret = s.minstret := by
  have hc : cellWritten r ≠ some .minstret := by cases r <;> simp_all [cellWritten, csrIsInstret]
  simpa [cellValue] using csrWrite_cellValue h hc

/-- A write of any CSR but `mip`, `sip` and `uip` leaves the software pending bits (10_state.md R63). -/
theorem csrWrite_mipSw {s t : State} {r : Csr} {v : Word} (h : csrWrite s r v = .next t)
    (hr : cellWritten r ≠ some .mipSw) : t.mipSw = s.mipSw := by
  simpa [cellValue] using csrWrite_cellValue h hr

/-- Registers are read only through `x`. -/
theorem readX_congr {s t : State} (h : t.x = s.x) (r : Reg) : readX t r = readX s r := by
  simp only [readX, h]

/-! ### Legal accesses -/

/-- `time` and `timeh` are the two addresses of 11_state_supervisor_user_pmp.md R125. -/
theorem timeTraps_iff {s : State} {a : CsrAddr} {r : Csr} (h : csrAt a = some r) :
    timeTraps s r = true ↔ s.cfg.timeCsrTraps = true ∧ (a = 0xC01#12 ∨ a = 0xC81#12) := by
  have htime : r = .time ↔ a = 0xC01#12 :=
    ⟨fun e => by rw [← csrAddress_of_csrAt h, e]; rfl, fun e => by rw [e] at h; exact (Option.some.inj h).symm⟩
  have htimeh : r = .timeh ↔ a = 0xC81#12 :=
    ⟨fun e => by rw [← csrAddress_of_csrAt h, e]; rfl, fun e => by rw [e] at h; exact (Option.some.inj h).symm⟩
  simp only [timeTraps, Bool.and_eq_true, Bool.or_eq_true, beq_iff_eq, htime, htimeh]

/-- The counter-enable check (11_state_supervisor_user_pmp.md R127). -/
theorem counterAccessPermitted_iff {s : State} {r : Csr} :
    counterAccessPermitted s r = true ↔ ∀ k, csrCounterBit r = some k → CounterEnabled s k := by
  unfold counterAccessPermitted CounterEnabled
  cases csrCounterBit r with
  | none => simp
  | some k => cases hp : s.priv <;> cases hs : s.cfg.hasS <;> simp

/-- The check of the CSR operand is the conjunction of the five conditions (10_state.md R28). -/
theorem csrOperand_eq_some_iff {s : State} {a : CsrAddr} {w : Bool} {r : Csr} :
    csrOperand s a w = some r ↔ AccessLegal s a w r := by
  rw [csrOperand_eq_some]
  constructor
  · rintro ⟨hat, hlegal⟩
    simp only [csrAccessLegal, Bool.and_eq_true, Bool.not_eq_true', Bool.and_eq_false_iff] at hlegal
    obtain ⟨⟨⟨⟨hpresent, hpriv⟩, hro⟩, hcounter⟩, htime⟩ := hlegal
    exact ⟨hat, hpresent, hpriv, by rintro ⟨rfl, hr⟩; simp_all, counterAccessPermitted_iff.mp hcounter,
      fun h => by rw [(timeTraps_iff hat).mpr h] at htime; cases htime⟩
  · rintro ⟨hat, hpresent, hpriv, hro, hcounter, htime⟩
    refine ⟨hat, ?_⟩
    have htraps : timeTraps s r = false := by
      rw [← Bool.not_eq_true, timeTraps_iff hat]; exact htime
    simp only [csrAccessLegal, hpresent, hpriv, counterAccessPermitted_iff.mpr hcounter, htraps]
    cases w
    · rfl
    · simpa using hro

theorem csrOperand_eq_none_iff {s : State} {a : CsrAddr} {w : Bool} :
    csrOperand s a w = none ↔ ¬∃ r, AccessLegal s a w r := by
  simp only [← csrOperand_eq_some_iff, Option.eq_none_iff_forall_ne_some, not_exists, ne_eq]

/-- A legal access is privileged enough (10_state.md R28). -/
theorem csrAccessLegal_priv {s : State} {r : Csr} {w : Bool} (h : csrAccessLegal s r w = true) :
    privLe (csrMinPriv r) s.priv = true := by
  simp only [csrAccessLegal, Bool.and_eq_true] at h
  exact h.1.1.1.2

/-- A CSR accessed in S-mode or U-mode is not a machine-level CSR (10_state.md R27). -/
theorem csrMinPriv_ne_machine {s : State} {r : Csr} {w : Bool} (h : csrAccessLegal s r w = true) (hp : s.priv ≠ .M) :
    csrMinPriv r ≠ .M := by
  intro hr
  have := csrAccessLegal_priv h
  rw [hr] at this
  cases hs : s.priv <;> simp_all [privLe, privCode]

/-! ### The twelve CSR instructions as one sequence -/

/-- The value that an instruction computes from the read-modify-write base (40_csr_instructions.md R231 to R236). -/
def csrNew (s : State) : Instr → Word → Word
  | .csrrw _ _ rs1 => fun _ => readX s rs1
  | .csrrs _ _ rs1 => fun base => base ||| readX s rs1
  | .csrrc _ _ rs1 => fun base => base &&& ~~~readX s rs1
  | .csrrwi _ _ z => fun _ => z.setWidth 64
  | .csrrsi _ _ z => fun base => base ||| z.setWidth 64
  | .csrrci _ _ z => fun base => base &&& ~~~z.setWidth 64
  | .mret | .sret | .uret => id
  | .rdcycle _ | .rdcycleh _ | .rdtime _ | .rdtimeh _ | .rdinstret _ | .rdinstreth _ => id

/-- An instruction that accesses a CSR is the common sequence on its fields (40_csr_instructions.md R230). -/
theorem exec_eq_csrSequence {i : Instr} {s : State} {a : CsrAddr} {w : Bool} (h : csrUse s.cfg i = some (a, w)) :
    ∃ rd, destination i = some rd ∧ exec i s = csrSequence s (encode i) a rd w (csrNew s i) := by
  cases i <;> simp only [csrUse, Option.some.injEq, Prod.mk.injEq, reduceCtorEq] at h
  all_goals (obtain ⟨rfl, rfl⟩ := h; exact ⟨_, rfl, rfl⟩)

/-- The CSR write of an instruction is its access where it will write. -/
theorem csrWriteOf_eq {i : Instr} {s : State} {a : CsrAddr} {w : Bool} (h : csrUse s.cfg i = some (a, w)) :
    csrWriteOf s i = if w then some (a, csrNew s i) else none := by
  cases i <;> simp only [csrUse, Option.some.injEq, Prod.mk.injEq, reduceCtorEq] at h
  all_goals obtain ⟨rfl, rfl⟩ := h
  case csrrwi rd a z =>
    by_cases hz : z = 0#5 <;> cases hw : s.cfg.csrrwiZimm0Writes <;> simp [csrWriteOf, csrNew, hz, hw]
  case csrrs rd a rs1 => by_cases hz : rs1 = 0#5 <;> simp [csrWriteOf, csrNew, hz]
  case csrrc rd a rs1 => by_cases hz : rs1 = 0#5 <;> simp [csrWriteOf, csrNew, hz]
  case csrrsi rd a z => by_cases hz : z = 0#5 <;> simp [csrWriteOf, csrNew, hz]
  case csrrci rd a z => by_cases hz : z = 0#5 <;> simp [csrWriteOf, csrNew, hz]
  all_goals rfl

/-- The instructions that access no CSR are the three returns. -/
theorem csrUse_eq_none_iff {c : Config} {i : Instr} : csrUse c i = none ↔ i = .mret ∨ i = .sret ∨ i = .uret := by
  cases i <;> simp [csrUse]

/-- The returns write no CSR. -/
theorem csrWriteOf_eq_none {s : State} {c : Config} {i : Instr} (h : csrUse c i = none) : csrWriteOf s i = none := by
  obtain rfl | rfl | rfl := csrUse_eq_none_iff.mp h <;> rfl

/-- The value written depends on the state through the integer registers alone. -/
theorem csrNew_congr {s t : State} (h : t.x = s.x) (i : Instr) : csrNew t i = csrNew s i := by
  cases i <;> simp only [csrNew, readX_congr h]

/-- The value written is computed bit by bit from the base. -/
theorem csrNew_bitwise (s : State) (i : Instr) {b b' : Word} {n : Nat} (h : b.getLsbD n = b'.getLsbD n) :
    (csrNew s i b).getLsbD n = (csrNew s i b').getLsbD n := by
  cases i <;> simp only [csrNew, BitVec.getLsbD_or, BitVec.getLsbD_and, id_eq, h]

/-- An access that is not legal raises, with the instruction's word as trap value (10_state.md R28). -/
theorem exec_of_illegal {i : Instr} {s : State} {a : CsrAddr} {w : Bool} (h : csrUse s.cfg i = some (a, w))
    (hop : csrOperand s a w = none) : exec i s = .next (raiseIllegal s (encode i)) := by
  obtain ⟨rd, -, hexec⟩ := exec_eq_csrSequence h
  simp only [hexec, csrSequence, hop]

/-- A legal access that does not write. -/
theorem exec_of_read {i : Instr} {s : State} {a : CsrAddr} {rd : Reg} {r : Csr} (h : csrUse s.cfg i = some (a, false))
    (hd : destination i = some rd) (hlegal : AccessLegal s a false r) :
    exec i s = .next (completeCsr (setX s rd (csrRead s r)) none) := by
  obtain ⟨rd', hd', hexec⟩ := exec_eq_csrSequence h
  obtain rfl : rd = rd' := Option.some.inj (hd.symm.trans hd')
  simp only [hexec, csrSequence, csrOperand_eq_some_iff.mpr hlegal, Bool.false_eq_true, if_false]

/-- A legal access that writes `u`. -/
theorem exec_of_write {i : Instr} {s u : State} {a : CsrAddr} {rd : Reg} {r : Csr} (h : csrUse s.cfg i = some (a, true))
    (hd : destination i = some rd) (hlegal : AccessLegal s a true r)
    (hw : csrWrite (setX s rd (csrRead s r)) r (csrNew s i (csrRmwBase s r)) = .next u) :
    exec i s = .next (completeCsr u (some r)) := by
  obtain ⟨rd', hd', hexec⟩ := exec_eq_csrSequence h
  obtain rfl : rd = rd' := Option.some.inj (hd.symm.trans hd')
  simp only [hexec, csrSequence, csrOperand_eq_some_iff.mpr hlegal, if_true, hw]

/-- What an instruction that accesses a CSR did when it answers a next state: raise, read, or read and write. -/
inductive CsrOutcome (s : State) (i : Instr) (a : CsrAddr) : Bool → State → Prop where
  | raise {w : Bool} (illegal : ¬∃ r, AccessLegal s a w r) : CsrOutcome s i a w (raiseIllegal s (encode i))
  | read (rd : Reg) (r : Csr) (dest : destination i = some rd) (legal : AccessLegal s a false r) :
      CsrOutcome s i a false (completeCsr (setX s rd (csrRead s r)) none)
  | write (rd : Reg) (r : Csr) (u : State) (dest : destination i = some rd) (legal : AccessLegal s a true r)
      (written : csrWrite (setX s rd (csrRead s r)) r (csrNew s i (csrRmwBase s r)) = .next u) :
      CsrOutcome s i a true (completeCsr u (some r))

/-- Everything an instruction that accesses a CSR can answer as a next state (40_csr_instructions.md R230). -/
theorem exec_csrOutcome {i : Instr} {s t : State} {a : CsrAddr} {w : Bool} (h : csrUse s.cfg i = some (a, w))
    (hexec : exec i s = .next t) : CsrOutcome s i a w t := by
  obtain ⟨rd, hd, heq⟩ := exec_eq_csrSequence h
  rcases csrSequence_next (heq ▸ hexec) with ⟨hop, rfl⟩ | ⟨r, hop, ⟨rfl, rfl⟩ | ⟨rfl, u, hu, rfl⟩⟩
  · exact .raise (csrOperand_eq_none_iff.mp hop)
  · exact .read rd r hd (csrOperand_eq_some_iff.mp hop)
  · exact .write rd r u hd (csrOperand_eq_some_iff.mp hop) hu

end Sys2Proof.Machine
end

section
/-! The cause table, and the `mstatus` stack bit by bit. -/

namespace Sys2Proof.Machine

/-! ### The cause table -/

/-- The codes of the cause table with Interrupt bit 1 (10_state.md R71). -/
theorem exists_interruptCode {k : Nat} (hk : k < 12) (h : (0xBBB#64).getLsbD k = true) : ∃ i, interruptCode i = k := by
  have table : ∀ k : Fin 12, (0xBBB#64).getLsbD k = true → k.val ∈ interruptOrder.map interruptCode := by decide
  obtain ⟨i, -, hi⟩ := List.mem_map.mp (table ⟨k, hk⟩ h)
  exact ⟨i, hi⟩

/-- The exceptions in the order of their codes (10_state.md R71). -/
def exceptionTable : List Exception :=
  [.instructionMisaligned, .instructionAccessFault, .illegalInstruction, .breakpoint, .loadMisaligned, .loadAccessFault,
    .storeMisaligned, .storeAccessFault, .ecallFromU, .ecallFromS, .ecallFromM, .instructionPageFault, .loadPageFault,
    .storePageFault]

/-- The codes of the cause table with Interrupt bit 0 (10_state.md R71). -/
theorem exists_exceptionCode {k : Nat} (hk : k < 16) (h : (0xBBFF#64).getLsbD k = true) : ∃ e, exceptionCode e = k := by
  have table : ∀ k : Fin 16, (0xBBFF#64).getLsbD k = true → k.val ∈ exceptionTable.map exceptionCode := by decide
  obtain ⟨e, -, he⟩ := List.mem_map.mp (table ⟨k, hk⟩ h)
  exact ⟨e, he⟩

theorem exceptionCode_lt (e : Exception) : exceptionCode e < 16 := by cases e <;> decide

/-- `{interrupt, code}` of an exception is its code (10_state.md R70). -/
theorem causeValue_exception_toNat (c : Config) (e : Exception) :
    (causeValue c (.exception e)).toNat = exceptionCode e := by
  have := exceptionCode_lt e
  simp only [causeValue, BitVec.toNat_ofNat]
  omega

/-- `{interrupt, code}` of an interrupt is its code with the top bit of XLEN set (10_state.md R70). -/
theorem causeValue_interrupt_toNat (c : Config) (i : Interrupt) :
    (causeValue c (.interrupt i)).toNat = 2 ^ (c.xlen.bits - 1) + interruptCode i := by
  unfold causeValue
  cases c.xlen <;> cases i <;> rfl

/-- Every value a trap writes is one of the cause table (10_state.md R70, R71). -/
theorem causeListed_causeValue (c : Config) (t : TrapCause) : causeListed c (causeValue c t) = true := by
  unfold causeListed causeValue
  cases t with
  | interrupt i => cases c.xlen <;> cases i <;> rfl
  | exception e => cases c.xlen <;> cases e <;> rfl

/-- A word with one bit of its own set is that bit and the rest. -/
theorem eq_bit_or_rest {v : Word} {k : Nat} (h : v &&& (1#64 <<< k) ≠ 0#64) :
    v = 1#64 <<< k ||| (v &&& ~~~(1#64 <<< k)) := by
  have hk : v.getLsbD k = true := by
    by_contra hv
    refine h (BitVec.eq_of_getLsbD_eq fun n hn => ?_)
    rw [BitVec.getLsbD_and, getLsbD_one_shiftLeft]
    by_cases hnk : n = k
    · subst hnk; simp only [Bool.not_eq_true] at hv; simp [hv]
    · simp [hnk]
  refine BitVec.eq_of_getLsbD_eq fun n hn => ?_
  rw [BitVec.getLsbD_or, BitVec.getLsbD_and, BitVec.getLsbD_not, getLsbD_one_shiftLeft]
  by_cases hnk : n = k
  · subst hnk; simp [hn, hk]
  · simp [hn, hnk]

/-- A word without a bit of the mask is left alone by clearing the mask. -/
theorem and_not_of_and_eq_zero {v mask : Word} (h : v &&& mask = 0#64) : v &&& ~~~mask = v := by
  refine BitVec.eq_of_getLsbD_eq fun n hn => ?_
  have hbit : (v.getLsbD n && mask.getLsbD n) = false := by rw [← BitVec.getLsbD_and, h, BitVec.getLsbD_zero]
  rw [BitVec.getLsbD_and, BitVec.getLsbD_not, decide_eq_true hn, Bool.true_and]
  revert hbit
  cases v.getLsbD n <;> cases mask.getLsbD n <;> decide

/-- The values of the cause table are exactly those a trap can write (10_state.md R70, R71). -/
theorem causeListed_iff {c : Config} {v : Word} : causeListed c v = true ↔ ∃ t, v = causeValue c t := by
  constructor
  · intro h
    unfold causeListed at h
    simp only at h
    split at h
    · next htop =>
      rw [and_not_of_and_eq_zero htop, Bool.and_eq_true, decide_eq_true_eq] at h
      obtain ⟨e, he⟩ := exists_exceptionCode h.1 h.2
      exact ⟨.exception e, by rw [causeValue, he, BitVec.ofNat_toNat, BitVec.setWidth_eq]⟩
    · next htop =>
      rw [Bool.and_eq_true, decide_eq_true_eq] at h
      obtain ⟨i, hi⟩ := exists_interruptCode h.1 h.2
      refine ⟨.interrupt i, ?_⟩
      rw [causeValue, hi, BitVec.ofNat_toNat, BitVec.setWidth_eq]
      exact eq_bit_or_rest htop
  · rintro ⟨t, rfl⟩
    exact causeListed_causeValue c t

/-- The value a trap writes fits in XLEN bits. -/
theorem fits_causeValue (c : Config) (t : TrapCause) : Fits c (causeValue c t) := by
  unfold Fits truncXlen causeValue
  cases t with
  | interrupt i => cases c.xlen <;> cases i <;> rfl
  | exception e => cases c.xlen <;> cases e <;> rfl

/-! ### The stack in `mstatus` -/

theorem getLsbD_pushStack_machine (m : Word) (y : Priv) (n : Nat) : (pushStack m .M y).getLsbD n =
    if n = 11 then y != .U else if n = 12 then y == .M else if n = 3 then false
    else if n = 7 then m.getLsbD 3 else m.getLsbD n := by
  have h0 : (privCode y).getLsbD 0 = (y != .U) := by cases y <;> rfl
  have h1 : (privCode y).getLsbD 1 = (y == .M) := by cases y <;> rfl
  simp (disch := decide) only [pushStack, getLsbD_setMpp, getLsbD_setBit, h0, h1, bitMIE, bitMPIE]

theorem getLsbD_pushStack_supervisor (m : Word) (y : Priv) (n : Nat) : (pushStack m .S y).getLsbD n =
    if n = 8 then y != .U else if n = 1 then false else if n = 5 then m.getLsbD 1 else m.getLsbD n := by
  simp (disch := decide) only [pushStack, getLsbD_setBit, bitSPP, bitSIE, bitSPIE]

theorem getLsbD_pushStack_user (m : Word) (y : Priv) (n : Nat) : (pushStack m .U y).getLsbD n =
    if n = 0 then false else if n = 4 then m.getLsbD 0 else m.getLsbD n := by
  simp (disch := decide) only [pushStack, getLsbD_setBit, bitUIE, bitUPIE]

theorem getLsbD_popStack_machine (c : Config) (m : Word) (n : Nat) : (popStack c m .M).getLsbD n =
    if n = 11 then !c.hasU else if n = 12 then !c.hasU else if n = 7 then true
    else if n = 3 then m.getLsbD 7 else m.getLsbD n := by
  have h0 : (if c.hasU then privCode .U else privCode .M).getLsbD 0 = !c.hasU := by cases c.hasU <;> rfl
  have h1 : (if c.hasU then privCode .U else privCode .M).getLsbD 1 = !c.hasU := by cases c.hasU <;> rfl
  simp (disch := decide) only [popStack, getLsbD_setMpp, getLsbD_setBit, h0, h1, bitMIE, bitMPIE]

theorem getLsbD_popStack_supervisor (c : Config) (m : Word) (n : Nat) : (popStack c m .S).getLsbD n =
    if n = 8 then false else if n = 5 then true else if n = 1 then m.getLsbD 5 else m.getLsbD n := by
  simp (disch := decide) only [popStack, getLsbD_setBit, bitSPP, bitSIE, bitSPIE]

theorem getLsbD_popStack_user (c : Config) (m : Word) (n : Nat) : (popStack c m .U).getLsbD n =
    if n = 4 then true else if n = 0 then m.getLsbD 4 else m.getLsbD n := by
  simp (disch := decide) only [popStack, getLsbD_setBit, bitUIE, bitUPIE]

/-- A trap into M-mode leaves in MPP the mode it came from (60_exceptions.md R320). -/
theorem getMpp_pushStack_machine (m : Word) (y : Priv) : getMpp (pushStack m .M y) = privCode y := by
  simp only [pushStack, getMpp_setMpp]

theorem getMpp_popStack_machine (c : Config) (m : Word) :
    getMpp (popStack c m .M) = privCode (if c.hasU then .U else .M) := by
  simp only [popStack, getMpp_setMpp]
  split <;> rfl

/-- Only the machine level's stack has a field MPP (10_state.md R47). -/
theorem getMpp_pushStack_lower (m : Word) {x : Priv} (y : Priv) (hx : x ≠ .M) : getMpp (pushStack m x y) = getMpp m := by
  cases x with
  | M => exact absurd rfl hx
  | S => exact getMpp_congr (getLsbD_pushStack_supervisor m y 11) (getLsbD_pushStack_supervisor m y 12)
  | U => exact getMpp_congr (getLsbD_pushStack_user m y 11) (getLsbD_pushStack_user m y 12)

theorem getMpp_popStack_lower (c : Config) (m : Word) {x : Priv} (hx : x ≠ .M) : getMpp (popStack c m x) = getMpp m := by
  cases x with
  | M => exact absurd rfl hx
  | S => exact getMpp_congr (getLsbD_popStack_supervisor c m 11) (getLsbD_popStack_supervisor c m 12)
  | U => exact getMpp_congr (getLsbD_popStack_user c m 11) (getLsbD_popStack_user c m 12)

end Sys2Proof.Machine
end

section
/-! Well-formedness is kept by every operation: one lemma per operation, then one per kind of effect, then the step. -/

namespace Sys2Proof.Machine

/-! ### Handling modes are implemented -/

/-- A trap is handled in S-mode only where S-mode is implemented (60_exceptions.md R330, R331). -/
theorem hasS_of_trapHandler {s : State} {t : TrapCause} (h : trapHandler s t = .S) : s.cfg.hasS = true := by
  cases t with
  | interrupt i =>
    simp only [trapHandler, interruptHandler] at h
    split_ifs at h
    assumption
  | exception e =>
    simp only [trapHandler, exceptionHandler] at h
    split_ifs at h
    assumption

/-- A trap is handled in U-mode only where user-level interrupts are implemented: without S-mode nothing else is delegated
(60_exceptions.md R330, R331; 10_state.md R59, R60). -/
theorem Wf.hasN_of_trapHandler {s : State} (hs : Wf s) {t : TrapCause} (h : trapHandler s t = .U) : s.cfg.hasN = true := by
  cases t with
  | interrupt i =>
    simp only [trapHandler, interruptHandler] at h
    split_ifs at h with hd hS hN
    · exact hN.1
    · have hmask := hs.mideleg_within.mask_of_bit (Bool.not_eq_false _ ▸ hd)
      simp only [getLsbD_midelegMask, hS, Bool.false_and, Bool.false_or, Bool.and_eq_true] at hmask
      exact hmask.1
  | exception e =>
    simp only [trapHandler, exceptionHandler] at h
    split_ifs at h with hp hd hS hN
    · exact hN.2.1
    · have hmask := hs.medeleg_within.mask_of_bit (Bool.not_eq_false _ ▸ hd)
      simp only [medelegMask, getLsbD_maskIf, hS, Bool.false_or, Bool.and_eq_true] at hmask
      exact hmask.1

/-- The mode a trap goes to is implemented (10_state.md R22). -/
theorem Wf.trapHandler_implemented {s : State} (hs : Wf s) (t : TrapCause) : hasMode s.cfg (trapHandler s t) = true := by
  cases h : trapHandler s t with
  | M => rfl
  | S => exact hasS_of_trapHandler h
  | U => exact hs.cfg_legal.n_needs_u (hs.hasN_of_trapHandler h)

/-! ### Values that the operations store -/

/-- A register stays within its mask when it changes at bits of the mask alone. -/
theorem Within.of_agree {old new mask : Word} (h : Within old mask)
    (hagree : ∀ n, mask.getLsbD n = false → new.getLsbD n = old.getLsbD n) : Within new mask := by
  refine (within_iff _ _).mpr fun n hn => ?_
  cases hm : mask.getLsbD n with
  | true => rfl
  | false => rw [hagree n hm, h.bit_eq_false hm] at hn; cases hn

/-- Trap entry writes stored bits of `mstatus` alone (60_exceptions.md R320). -/
theorem within_pushStack {c : Config} {m : Word} (h : Within m (mstatusMask c)) {x : Priv} (y : Priv)
    (hS : x = .S → c.hasS = true) (hN : x = .U → c.hasN = true) : Within (pushStack m x y) (mstatusMask c) := by
  refine h.of_agree fun n hn => ?_
  simp only [getLsbD_mstatusMask, decide_eq_false_iff_not, MstatusStores, not_or, not_and] at hn
  obtain ⟨h3, h7, h11, h12, -, hs, hu⟩ := hn
  cases x with
  | M => simp only [getLsbD_pushStack_machine, h3, h7, h11, h12, if_false]
  | S =>
    obtain ⟨h1, h5, h8, -, -⟩ := hs (hS rfl)
    simp only [getLsbD_pushStack_supervisor, h1, h5, h8, if_false]
  | U =>
    obtain ⟨h0, h4⟩ := hu (hN rfl)
    simp only [getLsbD_pushStack_user, h0, h4, if_false]

/-- An xRET writes stored bits of `mstatus` alone (42_trap_return.md R280). -/
theorem within_popStack {c : Config} {m : Word} (h : Within m (mstatusMask c)) {x : Priv}
    (hS : x = .S → c.hasS = true) (hN : x = .U → c.hasN = true) : Within (popStack c m x) (mstatusMask c) := by
  refine h.of_agree fun n hn => ?_
  simp only [getLsbD_mstatusMask, decide_eq_false_iff_not, MstatusStores, not_or, not_and] at hn
  obtain ⟨h3, h7, h11, h12, -, hs, hu⟩ := hn
  cases x with
  | M => simp only [getLsbD_popStack_machine, h3, h7, h11, h12, if_false]
  | S =>
    obtain ⟨h1, h5, h8, -, -⟩ := hs (hS rfl)
    simp only [getLsbD_popStack_supervisor, h1, h5, h8, if_false]
  | U =>
    obtain ⟨h0, h4⟩ := hu (hN rfl)
    simp only [getLsbD_popStack_user, h0, h4, if_false]

/-- The code of an implemented mode is legal in MPP (10_state.md R49). -/
theorem mppLegal_privCode {c : Config} {y : Priv} (h : hasMode c y = true) : mppLegal c (privCode y) = true := by
  rw [mppLegal, modeOfCode_privCode h, Option.isSome_some]

/-- Trap entry leaves MPP naming an implemented mode. -/
theorem mppLegal_pushStack {c : Config} {m : Word} (h : mppLegal c (getMpp m) = true) (x : Priv) {y : Priv}
    (hy : hasMode c y = true) : mppLegal c (getMpp (pushStack m x y)) = true := by
  by_cases hx : x = .M
  · rw [hx, getMpp_pushStack_machine]; exact mppLegal_privCode hy
  · rwa [getMpp_pushStack_lower m y hx]

/-- An xRET leaves MPP naming an implemented mode. -/
theorem mppLegal_popStack {c : Config} {m : Word} (h : mppLegal c (getMpp m) = true) (x : Priv) :
    mppLegal c (getMpp (popStack c m x)) = true := by
  by_cases hx : x = .M
  · rw [hx, getMpp_popStack_machine]
    refine mppLegal_privCode ?_
    cases hu : c.hasU with
    | true => exact hu
    | false => rfl
  · rwa [getMpp_popStack_lower c m hx]

/-- A merge through a mask without bits 12:11 keeps MPP. -/
theorem getMpp_mergeBits {old v mask : Word} (h11 : mask.getLsbD 11 = false) (h12 : mask.getLsbD 12 = false) :
    getMpp (mergeBits old v mask) = getMpp old := by
  refine getMpp_congr ?_ ?_
  · rw [getLsbD_mergeBits, h11, if_neg Bool.false_ne_true]
  · rw [getLsbD_mergeBits, h12, if_neg Bool.false_ne_true]

/-- A write of `mstatus` replaces MPP (10_state.md R56). -/
theorem getMpp_mergeBits_mstatusMask (c : Config) (old v : Word) : getMpp (mergeBits old v (mstatusMask c)) = getMpp v := by
  refine getMpp_congr ?_ ?_
  · rw [getLsbD_mergeBits, getLsbD_mstatusMask, if_pos (by simp)]
  · rw [getLsbD_mergeBits, getLsbD_mstatusMask, if_pos (by simp)]

theorem within_mergeBits {old : Word} (v : Word) {mask : Word} (h : Within old mask) : Within (mergeBits old v mask) mask :=
  mergeBits_within h fun _ hn => hn

/-- The interrupts that `sie` and `sip` show are delegated ones (11_state_supervisor_user_pmp.md R105). -/
theorem Wf.delegated_of_supervisorVisible {s : State} (hs : Wf s) {n : Nat} (h : (supervisorVisible s).getLsbD n = true) :
    (midelegMask s.cfg).getLsbD n = true := by
  rw [supervisorVisible, BitVec.getLsbD_and, Bool.and_eq_true] at h
  exact hs.mideleg_within.mask_of_bit h.1

/-- The interrupts that `uie` and `uip` show are delegated ones (11_state_supervisor_user_pmp.md R116). -/
theorem Wf.delegated_of_userVisible {s : State} (hs : Wf s) {n : Nat} (h : (userVisible s).getLsbD n = true) :
    (midelegMask s.cfg).getLsbD n = true := by
  rw [userVisible, BitVec.getLsbD_and, Bool.and_eq_true] at h
  refine hs.mideleg_within.mask_of_bit ?_
  cases hS : s.cfg.hasS with
  | false => simpa [hS] using h.1
  | true =>
    have hboth := h.1
    rw [hS, if_pos rfl, BitVec.getLsbD_and, Bool.and_eq_true] at hboth
    exact hboth.1

/-- Every interrupt that can be delegated has an enable bit (10_state.md R60, R62). -/
theorem mieMask_of_midelegMask {c : Config} {n : Nat} (h : (midelegMask c).getLsbD n = true) :
    (mieMask c).getLsbD n = true := by
  rw [getLsbD_midelegMask] at h
  rw [getLsbD_mieMask, Bool.or_assoc, h, Bool.or_true]

/-! ### The PMP registers -/

/-- A written configuration byte is legal when the old one is (11_state_supervisor_user_pmp.md R131). -/
theorem pmpcfgWriteByte_legal {c : Config} {old : BitVec 8} (h : old &&& 0x9F#8 = old) (i : Nat) (b : BitVec 8) :
    pmpcfgWriteByte c old i b &&& 0x9F#8 = pmpcfgWriteByte c old i b := by
  unfold pmpcfgWriteByte
  split_ifs
  · exact h
  · exact h
  · rw [BitVec.and_assoc, BitVec.and_self]

/-- A write of a configuration CSR gives each entry its old byte or the byte written to it (R134). -/
theorem getElem_pmpcfgWrite (c : Config) (cfgs : Vector (BitVec 8) 16) (k : Fin 4) (v : Word) (i : Fin 16) :
    (pmpcfgWrite c cfgs k v)[i] =
      if 4 * k.val ≤ i.val && i.val < 4 * k.val + pmpBytesPerCsr c then
        pmpcfgWriteByte c cfgs[i] i (v.extractLsb' (8 * (i.val - 4 * k.val)) 8)
      else cfgs[i] := by
  simp only [pmpcfgWrite, Fin.getElem_fin, Vector.getElem_mapFinIdx]

/-- A write of an address CSR changes its own entry alone, and only where it is not ignored (R134). -/
theorem getElem_pmpaddrWrite (c : Config) (cfgs : Vector (BitVec 8) 16) (addrs : Vector Word 16) (j : Fin 16) (v : Word)
    (i : Fin 16) : (pmpaddrWrite c cfgs addrs j v)[i] =
      if i = j ∧ pmpaddrIgnored c cfgs j = false then pmpaddrLegal c v else addrs[i] := by
  unfold pmpaddrWrite
  cases hig : pmpaddrIgnored c cfgs j with
  | true => simp
  | false =>
    by_cases hij : i = j
    · subst hij; simp
    · have : j.val ≠ i.val := fun e => hij (Fin.ext e.symm)
      simp [hij, Vector.getElem_set_ne, this]

end Sys2Proof.Machine
end

section
/-! Every operation keeps the state well formed, and so does every step. -/

namespace Sys2Proof.Machine

/-! ### Writes of single registers -/

theorem Wf.set_mstatus {s : State} (hs : Wf s) {m : Word} (hm : Within m (mstatusMask s.cfg))
    (hmpp : mppLegal s.cfg (getMpp m) = true) : Wf { s with mstatus := m } :=
  { hs with mstatus_within := hm, mpp_implemented := hmpp }

theorem Wf.set_mie {s : State} (hs : Wf s) {v : Word} (hv : Within v (mieMask s.cfg)) : Wf { s with mie := v } :=
  { hs with mie_within := hv }

theorem Wf.set_mipSw {s : State} (hs : Wf s) {v : Word} (hv : Within v (mipSwMask s.cfg)) : Wf { s with mipSw := v } :=
  { hs with mip_within := hv }

/-- A write through a view of `mstatus` reaches stored bits other than MPP alone (11_state_supervisor_user_pmp.md R100, R115). -/
theorem Wf.write_mstatus_view {s : State} (hs : Wf s) (v : Word) {view : Word} (h11 : view.getLsbD 11 = false)
    (h12 : view.getLsbD 12 = false) : Wf { s with mstatus := mergeBits s.mstatus v (view &&& mstatusMask s.cfg) } := by
  refine hs.set_mstatus (mergeBits_within hs.mstatus_within fun n hn => ?_) ?_
  · rw [BitVec.getLsbD_and, Bool.and_eq_true] at hn
    exact hn.2
  · rw [getMpp_mergeBits (by rw [BitVec.getLsbD_and, h11, Bool.false_and]) (by rw [BitVec.getLsbD_and, h12, Bool.false_and])]
    exact hs.mpp_implemented

/-- A write through a view of `mie` reaches enable bits alone (11_state_supervisor_user_pmp.md R107, R117). -/
theorem Wf.write_mie_view {s : State} (hs : Wf s) (v : Word) {view : Word}
    (hview : ∀ n, view.getLsbD n = true → (midelegMask s.cfg).getLsbD n = true) :
    Wf { s with mie := mergeBits s.mie v view } :=
  hs.set_mie (mergeBits_within hs.mie_within fun n hn => mieMask_of_midelegMask (hview n hn))

/-- A write through a view of `mip` reaches software bits alone (11_state_supervisor_user_pmp.md R106, R117). -/
theorem Wf.write_mipSw_view {s : State} (hs : Wf s) (v : Word) {view : Word} (bits : Word)
    (hview : ∀ n, view.getLsbD n = true → (midelegMask s.cfg).getLsbD n = true) :
    Wf { s with mipSw := mergeBits s.mipSw v (view &&& bits) } := by
  refine hs.set_mipSw (mergeBits_within hs.mip_within fun n hn => hview n ?_)
  rw [BitVec.getLsbD_and, Bool.and_eq_true] at hn
  exact hn.1

theorem Wf.write_pmpcfg {s : State} (hs : Wf s) (k : Fin 4) (v : Word) :
    Wf { s with pmpcfg := pmpcfgWrite s.cfg s.pmpcfg k v } :=
  { hs with
    pmpcfg_legal := fun i => by
      show (pmpcfgWrite s.cfg s.pmpcfg k v)[i] &&& 0x9F#8 = (pmpcfgWrite s.cfg s.pmpcfg k v)[i]
      rw [getElem_pmpcfgWrite]
      split
      · exact pmpcfgWriteByte_legal (hs.pmpcfg_legal i) _ _
      · exact hs.pmpcfg_legal i
    pmp_absent := fun i hi => by
      refine ⟨?_, (hs.pmp_absent i hi).2⟩
      show (pmpcfgWrite s.cfg s.pmpcfg k v)[i] = 0#8
      rw [getElem_pmpcfgWrite, pmpcfgWriteByte, if_pos hi, ite_self]
      exact (hs.pmp_absent i hi).1 }

theorem Wf.write_pmpaddr {s : State} (hs : Wf s) (j : Fin 16) (v : Word) :
    Wf { s with pmpaddr := pmpaddrWrite s.cfg s.pmpcfg s.pmpaddr j v } :=
  { hs with
    pmpaddr_legal := fun i => by
      show pmpaddrLegal s.cfg (pmpaddrWrite s.cfg s.pmpcfg s.pmpaddr j v)[i] = (pmpaddrWrite s.cfg s.pmpcfg s.pmpaddr j v)[i]
      rw [getElem_pmpaddrWrite]
      split
      · exact pmpaddrLegal_idem _ _
      · exact hs.pmpaddr_legal i
    pmp_absent := fun i hi => by
      refine ⟨(hs.pmp_absent i hi).1, ?_⟩
      show (pmpaddrWrite s.cfg s.pmpcfg s.pmpaddr j v)[i] = 0#64
      rw [getElem_pmpaddrWrite, if_neg]
      · exact (hs.pmp_absent i hi).2
      · rintro ⟨rfl, hig⟩
        simp [pmpaddrIgnored, hi] at hig }

/-- The bits of a counter-enable register stay CY, TM and IR (10_state.md R73). -/
theorem counterenLegal_idem (v : Word) : counterenLegal v &&& 7#32 = counterenLegal v := by
  rw [counterenLegal, BitVec.and_assoc, BitVec.and_self]

/-- A CSR write stores a legal value (10_state.md R30). -/
theorem Wf.csrWrite {s t : State} (hs : Wf s) {r : Csr} {v : Word} (h : csrWrite s r v = .next t) : Wf t := by
  obtain ⟨h_nmivec, h_scratch, h_mcause, h_mtval, h_sscratch, h_stval, h_satp, h_uscratch, h_ucause, h_utval⟩ := hs.plain_fits
  have hv : Fits s.cfg (truncXlen s.cfg v) := fits_truncXlen _ _
  cases r <;> simp only [Machine.csrWrite, mstatusWrite] at h
  case mstatus =>
    split at h
    · next hmpp =>
      cases h
      refine hs.set_mstatus (within_mergeBits v hs.mstatus_within) ?_
      rw [getMpp_mergeBits_mstatusMask]; exact hmpp
    · cases h
  all_goals cases h
  case sstatus => exact hs.write_mstatus_view v (by decide) (by decide)
  case ustatus => exact hs.write_mstatus_view v (by decide) (by decide)
  case medeleg => exact { hs with medeleg_within := within_mergeBits v hs.medeleg_within }
  case mideleg => exact { hs with mideleg_within := within_mergeBits v hs.mideleg_within }
  case sedeleg => exact { hs with sedeleg_within := within_mergeBits v hs.sedeleg_within }
  case sideleg => exact { hs with sideleg_within := within_mergeBits v hs.sideleg_within }
  case mie => exact hs.set_mie (within_mergeBits v hs.mie_within)
  case sie => exact hs.write_mie_view v fun _ => hs.delegated_of_supervisorVisible
  case uie => exact hs.write_mie_view v fun _ => hs.delegated_of_userVisible
  case mip => exact hs.set_mipSw (within_mergeBits v hs.mip_within)
  case sip => exact hs.write_mipSw_view v _ fun _ => hs.delegated_of_supervisorVisible
  case uip => exact hs.write_mipSw_view v _ fun _ => hs.delegated_of_userVisible
  case mtvec => exact { hs with mtvec_legal := tvecLegal_idem _ _ }
  case stvec => exact { hs with stvec_legal := tvecLegal_idem _ _ }
  case utvec => exact { hs with utvec_legal := tvecLegal_idem _ _ }
  case mepc => exact { hs with mepc_legal := epcLegal_idem _ _ }
  case sepc => exact { hs with sepc_legal := epcLegal_idem _ _ }
  case uepc => exact { hs with uepc_legal := epcLegal_idem _ _ }
  case mcounteren => exact { hs with counteren_legal := ⟨counterenLegal_idem v, hs.counteren_legal.2⟩ }
  case scounteren => exact { hs with counteren_legal := ⟨hs.counteren_legal.1, counterenLegal_idem v⟩ }
  case mnmivec | mscratch | mcause | mtval | sscratch | satp | uscratch | ucause | utval =>
    exact { hs with plain_fits := by and_intros <;> assumption }
  case pmpcfg k => exact hs.write_pmpcfg k v
  case pmpaddr j => exact hs.write_pmpaddr j v
  all_goals exact { hs with }

/-! ### The shared operations -/

theorem Wf.setX {s : State} (hs : Wf s) (r : Reg) (v : Word) : Wf (setX s r v) := by
  unfold Machine.setX
  split
  · exact hs
  · next hr =>
    have hlt := r.isLt
    have hne : r.toNat ≠ 0 := fun h0 => hr (BitVec.eq_of_toNat_eq (by simpa using h0))
    refine { hs with x_fits := fun q => ?_, x_zero := ?_ }
    · show Fits s.cfg (s.x.set r.toNat (truncXlen s.cfg v) hlt)[q.val]
      rw [Vector.getElem_set]
      split
      · exact fits_truncXlen _ _
      · exact hs.x_fits q
    · show (s.x.set r.toNat (truncXlen s.cfg v) hlt)[0] = 0#64
      rw [Vector.getElem_set_ne _ _ hne]
      exact hs.x_zero

theorem Wf.advancePc {s : State} (hs : Wf s) : Wf (advancePc s) :=
  { hs with pc_aligned := epcLegal_pc_add_four hs.pc_aligned }

theorem Wf.retire {s : State} (hs : Wf s) : Wf (retire s) := { hs with }

theorem Wf.sampleInputs {s : State} (hs : Wf s) : Wf (sampleInputs s) := { hs with }

theorem Wf.endStep {s : State} (hs : Wf s) : Wf (endStep s) := by
  unfold Machine.endStep
  split
  · exact { hs with nmi_quiet := rfl }
  · exact { hs with nmi_quiet := rfl }

theorem Wf.completeCsr {s : State} (hs : Wf s) (wrote : Option Csr) : Wf (completeCsr s wrote) := by
  unfold Machine.completeCsr
  split
  · split
    · exact hs.advancePc
    · exact hs.retire.advancePc
  · exact hs.retire.advancePc

theorem Wf.takeTrap {s : State} (hs : Wf s) (t : TrapCause) (tval epc : Word) : Wf (takeTrap s t tval epc) := by
  obtain ⟨h_nmivec, h_scratch, h_mcause, h_mtval, h_sscratch, h_stval, h_satp, h_uscratch, h_ucause, h_utval⟩ := hs.plain_fits
  have hcause : Fits s.cfg (causeValue s.cfg t) := fits_causeValue _ _
  have htval : Fits s.cfg (truncXlen s.cfg tval) := fits_truncXlen _ _
  have hpriv := hs.trapHandler_implemented t
  have hmpp := fun x => mppLegal_pushStack hs.mpp_implemented x hs.priv_implemented
  unfold Machine.takeTrap
  split
  · next h =>
    exact { hs with
      pc_aligned := epcLegal_trapVector _ _ _
      priv_implemented := rfl
      mstatus_within := within_pushStack hs.mstatus_within _ nofun nofun
      mpp_implemented := hmpp .M
      mepc_legal := epcLegal_idem _ _
      plain_fits := by and_intros <;> assumption }
  · next h =>
    exact { hs with
      pc_aligned := epcLegal_trapVector _ _ _
      priv_implemented := h ▸ hpriv
      mstatus_within := within_pushStack hs.mstatus_within _ (fun _ => hasS_of_trapHandler h) nofun
      mpp_implemented := hmpp .S
      sepc_legal := epcLegal_idem _ _
      scause_listed := causeListed_causeValue _ _
      plain_fits := by and_intros <;> assumption }
  · next h =>
    exact { hs with
      pc_aligned := epcLegal_trapVector _ _ _
      priv_implemented := h ▸ hpriv
      mstatus_within := within_pushStack hs.mstatus_within _ nofun (fun _ => hs.hasN_of_trapHandler h)
      mpp_implemented := hmpp .U
      uepc_legal := epcLegal_idem _ _
      plain_fits := by and_intros <;> assumption }

theorem Wf.returnFromTrap {s : State} (hs : Wf s) {x y : Priv} {epc : Word} (hS : x = .S → s.cfg.hasS = true)
    (hN : x = .U → s.cfg.hasN = true) (hy : hasMode s.cfg y = true) (hepc : epcLegal s.cfg epc = epc) :
    Wf (returnFromTrap s x y epc) :=
  { hs with
    pc_aligned := hepc
    priv_implemented := hy
    mstatus_within := within_popStack hs.mstatus_within hS hN
    mpp_implemented := mppLegal_popStack hs.mpp_implemented x }

/-! ### Instructions and steps -/

theorem CsrEffect.wf {s t : State} (h : CsrEffect s t) (hs : Wf s) : Wf t := by
  cases h with
  | read rd r legal => exact (hs.setX _ _).completeCsr _
  | write rd r v u legal written => exact ((hs.setX _ _).csrWrite written).completeCsr _

theorem ReturnEffect.wf {s t : State} (h : ReturnEffect s t) (hs : Wf s) : Wf t := by
  cases h with
  | mret y mode mpp => exact hs.returnFromTrap nofun nofun (hasMode_of_modeOfCode mpp) hs.mepc_legal
  | sret implemented mode =>
    refine hs.returnFromTrap (fun _ => implemented) nofun ?_ hs.sepc_legal
    split
    · exact implemented
    · exact hs.cfg_legal.s_needs_u implemented
  | uret implemented =>
    exact hs.returnFromTrap nofun (fun _ => implemented) (hs.cfg_legal.n_needs_u implemented) hs.uepc_legal

/-- An instruction keeps the state well formed. -/
theorem Wf.exec {i : Instr} {s t : State} (hs : Wf s) (h : exec i s = .next t) : Wf t := by
  obtain rfl | hcsr | hret := exec_next h
  · exact hs.takeTrap _ _ _
  · exact hcsr.wf hs
  · exact hret.wf hs

/-- A step keeps the state well formed. -/
theorem Wf.step {s s' : State} (hs : Wf s) (h : step s = .next s') : Wf s' := by
  obtain ⟨-, t, rfl, ⟨i, -, rfl⟩ | ⟨-, ⟨e, -, rfl⟩ | ⟨bs, i, rest, -, -, hexec⟩⟩⟩ := step_next h
  · exact (hs.sampleInputs.takeTrap _ _ _).endStep
  · exact (hs.sampleInputs.takeTrap _ _ _).endStep
  · exact (hs.sampleInputs.exec hexec).endStep

/-- Settles O56: one preservation lemma per operation, through the inversion of a step. -/
theorem everyStepKeepsTheStateWellFormed : Obligations.EveryStepKeepsTheStateWellFormed :=
  fun _ _ hs h => hs.step h

end Sys2Proof.Machine
end

section
/-! What S-mode and U-mode cannot do to M-mode: change its control registers (10_state.md R25, R28), or see its trap registers
(10_state.md R27). Both follow from the privilege condition of a legal access. -/

namespace Sys2Proof.Machine

/-! ### Machine control -/

/-- A write of a CSR that a lower mode may access leaves the machine's control registers (10_state.md R25). -/
theorem csrWrite_machineControl {s t : State} {r : Csr} {v : Word} (h : csrWrite s r v = .next t)
    (hr : csrMinPriv r ≠ .M) : machineControl t = machineControl s := by
  cases r <;> first | exact absurd rfl hr | (cases h; rfl)

@[simp] theorem machineControl_setX (s : State) (r : Reg) (v : Word) : machineControl (setX s r v) = machineControl s := by
  simp [machineControl]

@[simp] theorem machineControl_completeCsr (s : State) (w : Option Csr) :
    machineControl (completeCsr s w) = machineControl s := by
  simp [machineControl]

@[simp] theorem machineControl_takeTrap (s : State) (t : TrapCause) (v e : Word) :
    machineControl (takeTrap s t v e) = machineControl s := by
  simp [machineControl]

@[simp] theorem machineControl_returnFromTrap (s : State) (x y : Priv) (epc : Word) :
    machineControl (returnFromTrap s x y epc) = machineControl s := rfl

@[simp] theorem machineControl_sampleInputs (s : State) : machineControl (sampleInputs s) = machineControl s := rfl

@[simp] theorem machineControl_endStep (s : State) : machineControl (endStep s) = machineControl s := by
  simp [machineControl]

/-- An instruction below M-mode leaves the machine's control registers. -/
theorem exec_machineControl {i : Instr} {s t : State} (h : exec i s = .next t) (hp : s.priv ≠ .M) :
    machineControl t = machineControl s := by
  obtain rfl | hcsr | hret := exec_next h
  · exact machineControl_takeTrap ..
  · cases hcsr with
    | read rd r legal => simp
    | write rd r v u legal written =>
      rw [machineControl_completeCsr, csrWrite_machineControl written (csrMinPriv_ne_machine legal hp), machineControl_setX]
  · cases hret <;> exact machineControl_returnFromTrap ..

/-- Settles O58: traps and returns write no control register, and a legal access from below M-mode names a CSR of a lower
mode. -/
theorem machineControlChangesOnlyInMachineMode : Obligations.MachineControlChangesOnlyInMachineMode := by
  intro s s' h hp
  obtain ⟨-, t, rfl, ⟨i, -, rfl⟩ | ⟨-, ⟨e, -, rfl⟩ | ⟨bs, i, rest, -, -, hexec⟩⟩⟩ := step_next h
  · simp [takeInterrupt]
  · simp [raiseException]
  · rw [machineControl_endStep, exec_machineControl hexec hp, machineControl_sampleInputs]

/-! ### Machine trap registers -/

/-- The states differ at most in `mscratch`, `mepc`, `mcause`, `mtval` and `mnmivec`. -/
def SameBelowMachine (s s' : State) : Prop :=
  ∃ scratch epc cause tval nmivec,
    s' = { s with mscratch := scratch, mepc := epc, mcause := cause, mtval := tval, mnmivec := nmivec }

/-- The outcomes are the same refusal, or next states that differ at most in the five registers. -/
inductive SameOutcome : Host.Outcome State Fault Refusal → Host.Outcome State Fault Refusal → Prop where
  | next {t t' : State} (same : SameBelowMachine t t') : SameOutcome (.next t) (.next t')
  | refused (e : Refusal) : SameOutcome (.refused e) (.refused e)

namespace SameBelowMachine

variable {s s' : State}

/-! What the operations below M-mode look at is the same in both states. -/

theorem cfg (h : SameBelowMachine s s') : s'.cfg = s.cfg := by
  obtain ⟨scratch, epc, cause, tval, nmivec, rfl⟩ := h; rfl

theorem x (h : SameBelowMachine s s') : s'.x = s.x := by
  obtain ⟨scratch, epc, cause, tval, nmivec, rfl⟩ := h; rfl

theorem pc (h : SameBelowMachine s s') : s'.pc = s.pc := by
  obtain ⟨scratch, epc, cause, tval, nmivec, rfl⟩ := h; rfl

theorem env (h : SameBelowMachine s s') : s'.env = s.env := by
  obtain ⟨scratch, epc, cause, tval, nmivec, rfl⟩ := h; rfl

theorem setX (h : SameBelowMachine s s') (r : Reg) (v : Word) :
    SameBelowMachine (setX s r v) (Machine.setX s' r v) := by
  obtain ⟨scratch, epc, cause, tval, nmivec, rfl⟩ := h
  unfold Machine.setX
  split
  · exact ⟨_, _, _, _, _, rfl⟩
  · exact ⟨_, _, _, _, _, rfl⟩

theorem completeCsr (h : SameBelowMachine s s') (wrote : Option Csr) :
    SameBelowMachine (completeCsr s wrote) (Machine.completeCsr s' wrote) := by
  obtain ⟨scratch, epc, cause, tval, nmivec, rfl⟩ := h
  unfold Machine.completeCsr
  split
  · split
    · exact ⟨_, _, _, _, _, rfl⟩
    · exact ⟨_, _, _, _, _, rfl⟩
  · exact ⟨_, _, _, _, _, rfl⟩

/-- The handling mode of a trap depends on the delegation registers and the mode alone. -/
theorem trapHandler (h : SameBelowMachine s s') (t : TrapCause) : trapHandler s' t = Machine.trapHandler s t := by
  obtain ⟨scratch, epc, cause, tval, nmivec, rfl⟩ := h
  cases t <;> rfl

/-- Taking the same trap: into M-mode the two states even become equal in four of the five registers. -/
theorem takeTrap (h : SameBelowMachine s s') (t : TrapCause) (v e : Word) :
    SameBelowMachine (takeTrap s t v e) (Machine.takeTrap s' t v e) := by
  have hh := h.trapHandler t
  obtain ⟨scratch, epc, cause, tval, nmivec, rfl⟩ := h
  unfold Machine.takeTrap
  rw [hh]
  split
  · exact ⟨_, _, _, _, _, rfl⟩
  · exact ⟨_, _, _, _, _, rfl⟩
  · exact ⟨_, _, _, _, _, rfl⟩

theorem returnFromTrap (h : SameBelowMachine s s') (x y : Priv) (epc : Word) :
    SameBelowMachine (returnFromTrap s x y epc) (Machine.returnFromTrap s' x y epc) := by
  obtain ⟨scratch, _, cause, tval, nmivec, rfl⟩ := h
  exact ⟨_, _, _, _, _, rfl⟩

theorem sampleInputs (h : SameBelowMachine s s') : SameBelowMachine (sampleInputs s) (Machine.sampleInputs s') := by
  obtain ⟨scratch, epc, cause, tval, nmivec, rfl⟩ := h
  exact ⟨_, _, _, _, _, rfl⟩

theorem endStep (h : SameBelowMachine s s') : SameBelowMachine (endStep s) (Machine.endStep s') := by
  obtain ⟨scratch, epc, cause, tval, nmivec, rfl⟩ := h
  unfold Machine.endStep
  simp only
  split
  · exact ⟨_, _, _, _, _, rfl⟩
  · exact ⟨_, _, _, _, _, rfl⟩

/-- No CSR that a lower mode may access shows one of the five registers (10_state.md R25, R27). -/
theorem csrRead (h : SameBelowMachine s s') {r : Csr} (hr : csrMinPriv r ≠ .M) : csrRead s' r = Machine.csrRead s r := by
  obtain ⟨scratch, epc, cause, tval, nmivec, rfl⟩ := h
  cases r <;> first | rfl | exact absurd rfl hr

theorem csrRmwBase (h : SameBelowMachine s s') {r : Csr} (hr : csrMinPriv r ≠ .M) :
    csrRmwBase s' r = Machine.csrRmwBase s r := by
  obtain ⟨scratch, epc, cause, tval, nmivec, rfl⟩ := h
  cases r <;> first | rfl | exact absurd rfl hr

theorem csrWrite (h : SameBelowMachine s s') {r : Csr} (hr : csrMinPriv r ≠ .M) (v : Word) :
    SameOutcome (csrWrite s r v) (Machine.csrWrite s' r v) := by
  obtain ⟨scratch, epc, cause, tval, nmivec, rfl⟩ := h
  cases r <;> first | exact .next ⟨_, _, _, _, _, rfl⟩ | exact absurd rfl hr

theorem csrOperand (h : SameBelowMachine s s') (a : CsrAddr) (w : Bool) :
    csrOperand s' a w = Machine.csrOperand s a w := by
  obtain ⟨scratch, epc, cause, tval, nmivec, rfl⟩ := h
  rfl

/-- The common sequence below M-mode (40_csr_instructions.md R230). -/
theorem csrSequence (h : SameBelowMachine s s') (hp : s.priv ≠ .M) (word : InstrWord) (a : CsrAddr) (rd : Reg) (w : Bool)
    (new : Word → Word) : SameOutcome (csrSequence s word a rd w new) (Machine.csrSequence s' word a rd w new) := by
  unfold Machine.csrSequence
  rw [h.csrOperand a w]
  cases hop : Machine.csrOperand s a w with
  | none =>
    simp only [raiseIllegal, raiseException, h.pc]
    exact .next (h.takeTrap _ _ _)
  | some r =>
    have hr := csrMinPriv_ne_machine (csrOperand_eq_some.mp hop).2 hp
    have hset := h.setX rd (Machine.csrRead s r)
    simp only [h.csrRead hr, h.csrRmwBase hr]
    cases w with
    | false => exact .next (hset.completeCsr none)
    | true =>
      simp only [if_true]
      have same := hset.csrWrite hr (new (Machine.csrRmwBase s r))
      generalize Machine.csrWrite (Machine.setX s rd _) r _ = o at same ⊢
      generalize Machine.csrWrite (Machine.setX s' rd _) r _ = o' at same ⊢
      cases same with
      | next same => exact .next (same.completeCsr _)
      | refused e => exact .refused e

/-- An instruction below M-mode: MRET, the one reader of `mepc`, raises there. -/
theorem exec (h : SameBelowMachine s s') (hp : s.priv ≠ .M) (i : Instr) : SameOutcome (exec i s) (Machine.exec i s') := by
  cases hu : csrUse s.cfg i with
  | some p =>
    obtain ⟨a, w⟩ := p
    have hu' : csrUse s'.cfg i = some (a, w) := by rw [h.cfg]; exact hu
    have hnew : csrNew s' i = csrNew s i := csrNew_congr h.x i
    obtain ⟨rd, hd, hexec⟩ := exec_eq_csrSequence hu
    obtain ⟨rd', hd', hexec'⟩ := exec_eq_csrSequence hu'
    obtain rfl : rd = rd' := Option.some.inj (hd.symm.trans hd')
    rw [hexec, hexec', hnew]
    exact h.csrSequence hp _ a rd w _
  | none =>
    have hraise := fun w => h.takeTrap (.exception .illegalInstruction) w s.pc
    have hret := fun x y epc => h.returnFromTrap x y epc
    obtain ⟨scratch, epc, cause, tval, nmivec, rfl⟩ := h
    obtain rfl | rfl | rfl := csrUse_eq_none_iff.mp hu
    · simp only [Machine.exec, execMret, hp, if_false]
      exact .next (hraise _)
    · simp only [Machine.exec, execSret]
      split
      · exact .next (hret _ _ _)
      · exact .next (hraise _)
    · simp only [Machine.exec, execUret]
      split
      · exact .next (hret _ _ _)
      · exact .next (hraise _)

theorem fetchAndExec (h : SameBelowMachine s s') (hp : s.priv ≠ .M) :
    SameOutcome (fetchAndExec s) (Machine.fetchAndExec s') := by
  have hfetch : fetchBytes s' = fetchBytes s := by obtain ⟨scratch, epc, cause, tval, nmivec, rfl⟩ := h; rfl
  unfold Machine.fetchAndExec
  rw [hfetch, h.pc]
  cases fetchBytes s with
  | fault e => simp only [raiseException, h.pc]; exact .next (h.takeTrap _ _ _)
  | refused e => exact .refused e
  | next bs =>
    simp only
    cases decodeBytes bs with
    | ok p => exact h.exec hp p.1
    | error e => exact .refused _

theorem interruptOrExec (h : SameBelowMachine s s') (hp : s.priv ≠ .M) :
    SameOutcome (interruptOrExec s) (Machine.interruptOrExec s') := by
  have hpick : pickInterrupt s' = pickInterrupt s := by obtain ⟨scratch, epc, cause, tval, nmivec, rfl⟩ := h; rfl
  unfold Machine.interruptOrExec
  rw [hpick]
  cases pickInterrupt s with
  | some i => simp only [takeInterrupt, h.pc]; exact .next (h.takeTrap _ _ _)
  | none => exact h.fetchAndExec hp

/-- A step below M-mode depends on none of the five registers. -/
theorem step (h : SameBelowMachine s s') (hp : s.priv ≠ .M) : SameOutcome (step s) (Machine.step s') := by
  unfold Machine.step hartStep
  rw [h.env]
  split
  · exact .refused _
  · have same := h.sampleInputs.interruptOrExec hp
    generalize Machine.interruptOrExec (Machine.sampleInputs s) = o at same ⊢
    generalize Machine.interruptOrExec (Machine.sampleInputs s') = o' at same ⊢
    cases same with
    | next same => exact .next same.endStep
    | refused e => exact .refused e

end SameBelowMachine

/-- Settles O60: the step relation `SameBelowMachine` is kept by every operation that runs below M-mode. -/
theorem lowerModesLearnNothingOfMachineTrapRegisters : Obligations.LowerModesLearnNothingOfMachineTrapRegisters := by
  intro s scratch epc cause tval nmivec hp s'
  have same : SameOutcome (step s) (step s') := SameBelowMachine.step ⟨scratch, epc, cause, tval, nmivec, rfl⟩ hp
  refine ⟨fun t ht => ?_, fun e he => ?_⟩
  · rw [ht] at same
    generalize step s' = o at same ⊢
    cases same with
    | next same =>
      obtain ⟨scratch', epc', cause', tval', nmivec', rfl⟩ := same
      exact ⟨scratch', epc', cause', tval', nmivec', rfl⟩
  · rw [he] at same
    generalize step s' = o at same ⊢
    cases same with
    | refused e => rfl

end Sys2Proof.Machine
end

section
/-! What the CSR instructions retire, when they are refused or raise, and that they latch no input (10_state.md R28, R31, R49,
R75). -/

namespace Sys2Proof.Machine

/-! ### Retirement -/

theorem csrIsInstret_iff {r : Csr} : csrIsInstret r = true ↔ r = .minstret ∨ r = .minstreth := by
  cases r <;> simp [csrIsInstret]

/-- The retirement count after a CSR write: the written halves for `minstret` and `minstreth` (10_state.md R75). -/
theorem csrWrite_minstret_self {s t : State} {v : Word} (h : csrWrite s .minstret v = .next t) :
    t.minstret = counterWriteLow s.cfg s.minstret v := by
  cases h; rfl

theorem csrWrite_minstreth_self {s t : State} {v : Word} (h : csrWrite s .minstreth v = .next t) :
    t.minstret = counterWriteHigh s.minstret v := by
  cases h; rfl

/-- The retirement count after an instruction that accesses a CSR and completes (10_state.md R75). -/
theorem CsrOutcome.minstret {s t : State} {i : Instr} {a : CsrAddr} {w : Bool} (h : CsrOutcome s i a w t)
    (ht : t ≠ raiseIllegal s (encode i)) :
    t.minstret =
      if w = true ∧ a = 0xB02#12 then counterWriteLow s.cfg s.minstret (csrNew s i (csrRead s .minstret))
      else if w = true ∧ a = 0xB82#12 then counterWriteHigh s.minstret (csrNew s i (csrRead s .minstreth))
      else s.minstret + 1#64 := by
  cases h with
  | raise illegal => exact absurd rfl ht
  | read rd r dest legal => simp [completeCsr_minstret]
  | write rd r u dest legal written =>
    have haddr : csrAddress r = a := csrAddress_of_csrAt legal.found
    by_cases hlow : r = .minstret
    · subst hlow
      subst haddr
      simp only [completeCsr_minstret, csrWrite_minstret_self written, setX_cfg, setX_minstret]
      rfl
    · by_cases hhigh : r = .minstreth
      · subst hhigh
        subst haddr
        simp only [completeCsr_minstret, csrWrite_minstreth_self written, setX_minstret]
        rfl
      · have hlow' : a ≠ 0xB02#12 := fun e => hlow (csrAddress_injective (haddr.trans e))
        have hhigh' : a ≠ 0xB82#12 := fun e => hhigh (csrAddress_injective (haddr.trans e))
        have hr : csrIsInstret r = false := by rw [← Bool.not_eq_true, csrIsInstret_iff]; tauto
        simp [completeCsr_minstret, hr, csrWrite_minstret written hr, hlow', hhigh']

/-- Everything an instruction that accesses no CSR can do: raise illegal-instruction, or return (42_trap_return.md R280). -/
theorem exec_return {i : Instr} {s t : State} (hu : csrUse s.cfg i = none) (h : exec i s = .next t) :
    t = raiseIllegal s (encode i) ∨ ReturnEffect s t := by
  obtain rfl | rfl | rfl := csrUse_eq_none_iff.mp hu
  · simp only [exec, execMret] at h
    split at h
    · next hp =>
      split at h
      · next y hy => cases h; exact .inr (.mret y hp hy)
      · cases h
    · cases h; exact .inl rfl
  · simp only [exec, execSret] at h
    split at h
    · next hp => cases h; exact .inr (.sret hp.1 hp.2)
    · cases h; exact .inl rfl
  · simp only [exec, execUret] at h
    split at h
    · next hp => cases h; exact .inr (.uret hp)
    · cases h; exact .inl rfl

/-- A return that completes retires once (42_trap_return.md R280). -/
theorem ReturnEffect.minstret {s t : State} (h : ReturnEffect s t) : t.minstret = s.minstret + 1#64 := by
  cases h <;> rfl

/-- Settles O10: the three ways an instruction can complete, as `exec_csrOutcome` and `exec_return` list them. -/
theorem completedInstructionsRetireOnce : Obligations.CompletedInstructionsRetireOnce := by
  intro i s t h
  refine ⟨fun ht => by rw [ht]; exact takeTrap_minstret .., fun ht => ?_⟩
  cases hu : csrUse s.cfg i with
  | none =>
    simp only [csrWriteOf_eq_none hu, reduceCtorEq, false_implies, implies_true, and_true, true_implies]
    exact ((exec_return hu h).resolve_left ht).minstret
  | some p =>
    obtain ⟨a, w⟩ := p
    have hret := (exec_csrOutcome hu h).minstret ht
    rw [csrWriteOf_eq hu]
    cases w with
    | false => simpa using hret
    | true =>
      simp only [if_true, Option.some.injEq, Prod.mk.injEq, true_and] at hret ⊢
      refine ⟨fun hne => ?_, fun f hf => ?_, fun f hf => ?_⟩
      · obtain ⟨hlow, hhigh⟩ := hne a _ ⟨rfl, rfl⟩
        rw [hret, if_neg hlow, if_neg hhigh]
      · obtain ⟨rfl, rfl⟩ := hf
        rw [hret, if_pos rfl]
      · obtain ⟨rfl, rfl⟩ := hf
        rw [hret, if_neg (by decide), if_pos rfl]

/-! ### Refusals -/

/-- A CSR operand for `mstatus` is legal exactly in M-mode (10_state.md R25, R28). -/
theorem csrOperand_mstatus {s : State} {a : CsrAddr} {w : Bool} :
    csrOperand s a w = some .mstatus ↔ a = 0x300#12 ∧ s.priv = .M := by
  rw [csrOperand_eq_some]
  constructor
  · rintro ⟨hat, hlegal⟩
    exact ⟨(csrAddress_of_csrAt hat).symm, by_contra fun hp => csrMinPriv_ne_machine hlegal hp rfl⟩
  · rintro ⟨rfl, hp⟩
    refine ⟨rfl, ?_⟩
    simp only [csrAccessLegal, hp]
    simp [csrPresent, csrMinPriv, privLe, csrReadOnly, counterAccessPermitted, csrCounterBit, timeTraps]

/-- The common sequence is refused exactly where it writes an illegal MPP (10_state.md R49). -/
theorem csrSequence_refused {s : State} {word : InstrWord} {a : CsrAddr} {rd : Reg} {w : Bool} {new : Word → Word}
    {e : Refusal} : csrSequence s word a rd w new = .refused e ↔
      e = .illegalPreviousMode ∧ s.priv = .M ∧ w = true ∧ a = 0x300#12 ∧
        mppLegal s.cfg (getMpp (new (csrRead s .mstatus))) = false := by
  unfold csrSequence
  cases hop : csrOperand s a w with
  | none =>
    refine iff_of_false (by simp) ?_
    rintro ⟨-, hp, -, ha, -⟩
    rw [csrOperand_mstatus.mpr ⟨ha, hp⟩] at hop
    cases hop
  | some r =>
    cases w with
    | false => simp
    | true =>
      have hiff : csrWrite (setX s rd (csrRead s r)) r (new (csrRmwBase s r)) = .refused e ↔ _ := csrWrite_refused
      have hmst : r = .mstatus ↔ a = 0x300#12 ∧ s.priv = .M := by
        rw [← csrOperand_mstatus (w := true), hop, Option.some.injEq]
      rw [setX_cfg, hmst] at hiff
      have hwrite : csrWrite (setX s rd (csrRead s r)) r (new (csrRmwBase s r)) = .refused e ↔
          e = .illegalPreviousMode ∧ s.priv = .M ∧ true = true ∧ a = 0x300#12 ∧
            mppLegal s.cfg (getMpp (new (csrRead s .mstatus))) = false := by
        constructor
        · intro h
          obtain ⟨⟨ha, hp⟩, hm, he⟩ := hiff.mp h
          obtain rfl := hmst.mpr ⟨ha, hp⟩
          exact ⟨he, hp, rfl, ha, hm⟩
        · rintro ⟨he, hp, -, ha, hm⟩
          obtain rfl := hmst.mpr ⟨ha, hp⟩
          exact hiff.mpr ⟨⟨ha, hp⟩, hm, he⟩
      simp only [if_true]
      cases hw : csrWrite (setX s rd (csrRead s r)) r (new (csrRmwBase s r)) with
      | next u => rw [hw] at hwrite; simpa using hwrite
      | fault f => cases f
      | refused e' => rw [hw] at hwrite; simpa using hwrite

/-- A return is refused exactly where MRET finds an illegal MPP (42_trap_return.md R281). -/
theorem exec_return_refused {i : Instr} {s : State} {e : Refusal} (hu : csrUse s.cfg i = none) :
    exec i s = .refused e ↔
      e = .illegalPreviousMode ∧ s.priv = .M ∧ i = .mret ∧ modeOfCode s.cfg (getMpp s.mstatus) = none := by
  obtain rfl | rfl | rfl := csrUse_eq_none_iff.mp hu
  · simp only [exec, execMret]
    by_cases hp : s.priv = .M
    · cases hm : modeOfCode s.cfg (getMpp s.mstatus) <;> simp [hp, eq_comm]
    · simp [hp]
  · simp only [exec, execSret]
    split <;> simp
  · simp only [exec, execUret]
    split <;> simp

/-- Settles O11: the two refusals are `exec_return_refused` and `csrSequence_refused`. -/
theorem onlyIllegalPreviousModesAreRefused : Obligations.OnlyIllegalPreviousModesAreRefused := by
  intro i s e
  cases hu : csrUse s.cfg i with
  | none => simp [exec_return_refused hu, csrWriteOf_eq_none hu]
  | some p =>
    obtain ⟨a, w⟩ := p
    obtain ⟨rd, -, hexec⟩ := exec_eq_csrSequence hu
    have hmret : i ≠ .mret := by rintro rfl; cases hu
    rw [hexec, csrSequence_refused, csrWriteOf_eq hu]
    cases w with
    | false => simp [hmret]
    | true => simp [hmret]

/-! ### Illegal accesses -/

/-- Settles O18: an operand that is not legal is none, so the common sequence raises. -/
theorem illegalCsrAccessesRaise : Obligations.IllegalCsrAccessesRaise := by
  intro i s a w hu hillegal
  exact ⟨_, exec_of_illegal hu (csrOperand_eq_none_iff.mpr hillegal), rfl, readX_congr (takeTrap_x ..), takeTrap_minstret ..⟩

/-! ### The software pending bits -/

/-- A merge through an empty mask changes nothing. -/
theorem mergeBits_zero (old v : Word) : mergeBits old v 0#64 = old :=
  BitVec.eq_of_getLsbD_eq fun n _ => by rw [getLsbD_mergeBits, BitVec.getLsbD_zero, if_neg Bool.false_ne_true]

/-- The software pending bits that a write of a CSR replaces (10_state.md R63; 11_state_supervisor_user_pmp.md R106, R117). -/
def mipSwReach (s : State) : Csr → Word
  | .mip => mipSwMask s.cfg
  | .sip => supervisorVisible s &&& 0x103#64
  | .uip => userVisible s &&& 0x1#64
  | _ => 0#64

/-- The software pending bits after a CSR write. -/
theorem csrWrite_mipSw_eq {s t : State} {r : Csr} {v : Word} (h : csrWrite s r v = .next t) :
    t.mipSw = mergeBits s.mipSw v (mipSwReach s r) := by
  by_cases hr : cellWritten r = some .mipSw
  · cases r <;> first | (cases h; rfl) | cases hr
  · have hreach : mipSwReach s r = 0#64 := by cases r <;> first | rfl | exact absurd rfl hr
    rw [csrWrite_mipSw h hr, hreach, mergeBits_zero]

/-- The software pending bits after an instruction that accesses a CSR. -/
theorem exec_mipSw {i : Instr} {s t : State} {a : CsrAddr} {w : Bool} (hu : csrUse s.cfg i = some (a, w))
    (h : exec i s = .next t) : t.mipSw = (csrOperand s a w).elim s.mipSw fun r =>
      if w then mergeBits s.mipSw (csrNew s i (csrRmwBase s r)) (mipSwReach s r) else s.mipSw := by
  cases exec_csrOutcome hu h with
  | raise illegal => rw [csrOperand_eq_none_iff.mpr illegal]; exact takeTrap_mipSw ..
  | read rd r dest legal => rw [csrOperand_eq_some_iff.mpr legal]; simp
  | write rd r u dest legal written =>
    have hreach : mipSwReach (setX s rd (csrRead s r)) r = mipSwReach s r := by
      cases r <;> simp [mipSwReach, supervisorVisible, userVisible]
    rw [csrOperand_eq_some_iff.mpr legal, completeCsr_mipSw, csrWrite_mipSw_eq written, setX_mipSw, hreach]
    rfl

/-- A merge looks at the written value inside the mask alone. -/
theorem mergeBits_congr {old v v' mask : Word} (h : ∀ n, mask.getLsbD n = true → v.getLsbD n = v'.getLsbD n) :
    mergeBits old v mask = mergeBits old v' mask := by
  refine BitVec.eq_of_getLsbD_eq fun n _ => ?_
  rw [getLsbD_mergeBits, getLsbD_mergeBits]
  split
  · next hn => exact h n hn
  · rfl

/-- Bits other than MEIP, MTIP and MSIP are driven by no machine-level input (10_state.md R64). -/
theorem getLsbD_machinePending (s : State) (n : Nat) : (machinePending s).getLsbD n =
    ((s.env.meip && n == 11) || (s.env.mtip && n == 7) || (s.env.msip && n == 3)) := by
  obtain ⟨b11, b7, b3⟩ := getLsbD_machinePendingBits n
  simp only [machinePending, BitVec.getLsbD_or, getLsbD_maskIf, b11, b7, b3]

/-- The software pending bits lie beside the machine-level inputs (10_state.md R63, R64). -/
theorem mipSwReach_ne_machine {s : State} {r : Csr} {n : Nat} (h : (mipSwReach s r).getLsbD n = true) :
    n ≠ 3 ∧ n ≠ 7 ∧ n ≠ 11 := by
  have hview : (0x333#64).getLsbD n = true → n ≠ 3 ∧ n ≠ 7 ∧ n ≠ 11 := fun hv => by
    rw [getLsbD_supervisorViewBits] at hv
    simp only [Bool.or_eq_true, beq_iff_eq] at hv
    omega
  have huser : (0x111#64).getLsbD n = true → n ≠ 3 ∧ n ≠ 7 ∧ n ≠ 11 := fun hv => by
    rw [getLsbD_userLevelBits] at hv
    simp only [Bool.or_eq_true, beq_iff_eq] at hv
    omega
  unfold mipSwReach at h
  split at h
  · rw [mipSwMask_eq_midelegMask, getLsbD_midelegMask] at h
    simp only [Bool.or_eq_true, Bool.and_eq_true, beq_iff_eq] at h
    omega
  · simp only [supervisorVisible, BitVec.getLsbD_and, Bool.and_eq_true] at h
    exact hview h.1.2
  · simp only [userVisible, BitVec.getLsbD_and, Bool.and_eq_true] at h
    exact huser h.1.2
  · simp at h

/-- Where a write reaches the software pending bits, its read-modify-write base ignores every input (10_state.md R31). -/
theorem csrRmwBase_env {s : State} (e : Inputs) {r : Csr} {n : Nat} (h : (mipSwReach s r).getLsbD n = true) :
    (csrRmwBase { s with env := e } r).getLsbD n = (csrRmwBase s r).getLsbD n := by
  obtain ⟨h3, h7, h11⟩ := mipSwReach_ne_machine h
  have hbase : (mipBase { s with env := e }).getLsbD n = (mipBase s).getLsbD n := by
    simp only [mipBase, BitVec.getLsbD_or, getLsbD_machinePending, beq_eq_false_iff_ne.mpr h3, beq_eq_false_iff_ne.mpr h7,
      beq_eq_false_iff_ne.mpr h11, Bool.and_false, Bool.or_false]
  cases r
  case mip => exact hbase
  case sip => simp only [csrRmwBase, BitVec.getLsbD_and, hbase]; rfl
  case uip => simp only [csrRmwBase, BitVec.getLsbD_and, hbase]; rfl
  all_goals (exfalso; simp [mipSwReach] at h)

/-- No input takes part in the check of a CSR operand (10_state.md R28). -/
theorem csrOperand_env (s : State) (e : Inputs) (a : CsrAddr) (w : Bool) :
    csrOperand { s with env := e } a w = csrOperand s a w := rfl

/-- Settles O27: the value merged into the software bits agrees wherever the merge looks at it. -/
theorem inputsAreNeverLatchedIntoSoftwareBits : Obligations.InputsAreNeverLatchedIntoSoftwareBits := by
  intro i s t t' e h h'
  cases hu : csrUse s.cfg i with
  | none =>
    have keeps : ∀ {u u' : State}, csrUse u.cfg i = none → exec i u = .next u' → u'.mipSw = u.mipSw := fun hu h => by
      obtain rfl | hret := exec_return hu h
      · exact takeTrap_mipSw ..
      · cases hret <;> exact returnFromTrap_mipSw ..
    rw [keeps hu h, keeps (u := { s with env := e }) hu h']
  | some p =>
    obtain ⟨a, w⟩ := p
    have hu' : csrUse { s with env := e }.cfg i = some (a, w) := hu
    have hnew : csrNew { s with env := e } i = csrNew s i := csrNew_congr rfl i
    rw [exec_mipSw hu h, exec_mipSw hu' h', csrOperand_env, hnew]
    cases csrOperand s a w with
    | none => simp only [Option.elim_none]
    | some r =>
      simp only [Option.elim_some]
      cases w with
      | false => simp only [Bool.false_eq_true, if_false]
      | true => exact mergeBits_congr fun n hn => csrNew_bitwise s i (csrRmwBase_env e hn)

end Sys2Proof.Machine
end

section
/-! What the registers read back: the write rules of the CSR file bit by bit (10_state.md R30, R40 to R77). -/

namespace Sys2Proof.Machine

/-! ### The cells behind the CSRs -/

/-- Settles O21: a read depends on its cells, and a write keeps everything outside the CSR file. -/
theorem csrWritesReachOnlyTheirCell : Obligations.CsrWritesReachOnlyTheirCell := by
  intro s t r v h
  have keeps := csrWrite_keeps h
  exact ⟨fun q hq => csrRead_csrWrite_other h hq, readX_congr keeps.x, keeps.pc, keeps.priv, keeps.cfg, keeps.env,
    keeps.scheduled, keeps.tick, fun a => by rw [keeps.mem]⟩

/-! ### Plain registers, vectors, exception pcs and counters -/

theorem getLsbD_lowHalf (n : Nat) : (0xFFFFFFFF#64).getLsbD n = decide (n < 32) := by
  rw [show 0xFFFFFFFF#64 = (BitVec.allOnes 32).setWidth 64 by decide, BitVec.getLsbD_setWidth, BitVec.getLsbD_allOnes]
  by_cases hn : n < 32
  · simp [hn, show n < 64 by omega]
  · simp [hn]

theorem getLsbD_highHalf (n : Nat) : (0xFFFFFFFF00000000#64).getLsbD n = decide (32 ≤ n ∧ n < 64) := by
  rw [show 0xFFFFFFFF00000000#64 = BitVec.allOnes 64 <<< 32 by decide, BitVec.getLsbD_shiftLeft, BitVec.getLsbD_allOnes]
  rw [Bool.eq_iff_iff]
  simp only [Bool.and_eq_true, Bool.not_eq_true', decide_eq_true_eq, decide_eq_false_iff_not]
  omega

/-- A write of the low part of a counter replaces the low XLEN bits (10_state.md R74, R75). -/
theorem getLsbD_counterWriteLow (c : Config) (old : BitVec 64) (v : Word) (n : Nat) :
    (counterWriteLow c old v).getLsbD n = if n < c.xlen.bits then v.getLsbD n else old.getLsbD n := by
  unfold counterWriteLow
  cases c.xlen with
  | rv32 => simp only [getLsbD_mergeBits, getLsbD_lowHalf, decide_eq_true_eq]; rfl
  | rv64 =>
    by_cases hn : n < 64
    · simp only [Xlen.bits, hn, if_true]
    · simp only [Xlen.bits, hn, if_false, BitVec.getLsbD_of_ge _ n (show 64 ≤ n by omega)]

/-- A write of the high part of a counter replaces bits 63:32 (10_state.md R74, R75). -/
theorem getLsbD_counterWriteHigh (old : BitVec 64) (v : Word) (n : Nat) :
    (counterWriteHigh old v).getLsbD n = if 32 ≤ n ∧ n < 64 then v.getLsbD (n - 32) else old.getLsbD n := by
  rw [counterWriteHigh, getLsbD_mergeBits, getLsbD_highHalf]
  by_cases hn : 32 ≤ n ∧ n < 64
  · have hlow : ¬n < 32 := by omega
    simp only [hn, BitVec.getLsbD_shiftLeft, hlow, and_self, decide_true, if_true, decide_false, Bool.not_false, Bool.true_and]
  · simp only [hn, decide_false, Bool.false_eq_true, if_false]

/-- The low part of a counter reads back what was written to it (10_state.md R74, R75). -/
theorem counterLow_counterWriteLow (c : Config) (old : BitVec 64) (v : Word) :
    counterLow c (counterWriteLow c old v) = truncXlen c v := by
  refine BitVec.eq_of_getLsbD_eq fun n _ => ?_
  rw [counterLow, getLsbD_truncXlen, getLsbD_truncXlen, getLsbD_counterWriteLow]
  by_cases hn : n < c.xlen.bits
  · rw [if_pos hn]
  · simp only [hn, decide_false, Bool.false_and]

/-- The high part of a counter reads back the low 32 bits written to it (10_state.md R74, R75). -/
theorem counterHigh_counterWriteHigh (old : BitVec 64) (v : Word) :
    counterHigh (counterWriteHigh old v) = v &&& 0xFFFFFFFF#64 := by
  refine BitVec.eq_of_getLsbD_eq fun n hn => ?_
  rw [counterHigh, BitVec.getLsbD_ushiftRight, getLsbD_counterWriteHigh, BitVec.getLsbD_and, getLsbD_lowHalf]
  by_cases h32 : n < 32
  · rw [if_pos (by omega), decide_eq_true h32, Bool.and_true, Nat.add_sub_cancel_left]
  · rw [if_neg (by omega), decide_eq_false h32, Bool.and_false, BitVec.getLsbD_of_ge _ _ (by omega)]

/-- A counter-enable register reads back CY, TM and IR (10_state.md R73). -/
theorem setWidth_counterenLegal (v : Word) : (counterenLegal v).setWidth 64 = v &&& 7#64 := by
  apply BitVec.eq_of_toNat_eq
  have h32 : (7#32).toNat = 2 ^ 3 - 1 := rfl
  have h64 : (7#64).toNat = 2 ^ 3 - 1 := rfl
  simp only [counterenLegal, BitVec.toNat_setWidth, BitVec.toNat_and, h32, h64, Nat.and_two_pow_sub_one_eq_mod]
  omega

/-- Settles O22: one write rule per group of registers. -/
theorem registersReadBackTheirLegalValue : Obligations.RegistersReadBackTheirLegalValue := by
  intro s t r v h
  refine ⟨?_, ?_, ?_, ?_, ?_, ?_, ?_, ?_, ?_⟩
  · rintro (rfl | rfl | rfl | rfl | rfl | rfl | rfl | rfl | rfl) <;> cases h
    exacts [rfl, rfl, rfl, rfl, rfl, rfl, rfl, counterLow_counterWriteLow .., counterLow_counterWriteLow ..]
  · rintro (rfl | rfl | rfl) <;> (cases h; exact getLsbD_tvecLegal _ _)
  · rintro (rfl | rfl | rfl) <;> (cases h; exact getLsbD_epcLegal _ _)
  · rintro (rfl | rfl) <;> (cases h; exact setWidth_counterenLegal v)
  · rintro (rfl | rfl) <;> (cases h; exact counterHigh_counterWriteHigh _ v)
  · rintro rfl; cases h; exact getLsbD_counterWriteLow _ _ v
  · rintro rfl; cases h; exact getLsbD_counterWriteLow _ _ v
  · rintro rfl; cases h; exact getLsbD_counterWriteHigh _ v
  · rintro rfl; cases h; exact getLsbD_counterWriteHigh _ v

/-! ### Delegation, enable and pending registers -/

/-- A conditional mask cuts a value to the mask or to 0. -/
theorem and_maskIf (v : Word) (b : Bool) (m : Word) : v &&& maskIf b m = if b = true then v &&& m else 0#64 := by
  cases b <;> simp [maskIf]

/-- Settles O23: a write through the whole mask of a register within it gives the written bits of the mask. -/
theorem delegationAndEnableRegistersStoreTheirBits : Obligations.DelegationAndEnableRegistersStoreTheirBits := by
  intro s t r v hs h
  refine ⟨?_, ?_, ?_, ?_, ?_, ?_⟩
  · rintro rfl
    cases h
    show mergeBits s.medeleg v (medelegMask s.cfg) = _
    rw [mergeBits_of_within hs.medeleg_within, medelegMask, and_maskIf]
    simp only [Bool.or_eq_true]
  · rintro rfl
    cases h
    show mergeBits s.sedeleg v (sedelegMask s.cfg) = _
    rw [mergeBits_of_within hs.sedeleg_within, sedelegMask, and_maskIf]
  · rintro rfl
    cases h
    show mergeBits s.sideleg v (sidelegMask s.cfg) = _
    rw [mergeBits_of_within hs.sideleg_within, sidelegMask, and_maskIf]
  · rintro rfl n
    cases h
    show (mergeBits s.mideleg v (midelegMask s.cfg)).getLsbD n = _
    rw [mergeBits_of_within hs.mideleg_within, BitVec.getLsbD_and, getLsbD_midelegMask]
  · rintro rfl n
    cases h
    show (mergeBits s.mie v (mieMask s.cfg)).getLsbD n = _
    rw [mergeBits_of_within hs.mie_within, BitVec.getLsbD_and, getLsbD_mieMask]
  · rintro rfl n
    cases h
    show (mergeBits s.mipSw v (mipSwMask s.cfg)).getLsbD n = _
    rw [mergeBits_of_within hs.mip_within, BitVec.getLsbD_and, mipSwMask_eq_midelegMask, getLsbD_midelegMask]

/-! ### `mstatus` -/

/-- SXL and UXL (10_state.md R51). -/
theorem getLsbD_mstatusHardwired (c : Config) (n : Nat) : (mstatusHardwired c).getLsbD n =
    decide (c.xlen = .rv64 ∧ ((c.hasS = true ∧ n = 35) ∨ (c.hasU = true ∧ n = 33))) := by
  have hsxl : (2#64 <<< 34).getLsbD n = (n == 35) := by
    simpa using getLsbD_eq_any (2#64 <<< 34) [35] (by decide) (by decide) n
  have huxl : (2#64 <<< 32).getLsbD n = (n == 33) := by
    simpa using getLsbD_eq_any (2#64 <<< 32) [33] (by decide) (by decide) n
  unfold mstatusHardwired
  cases c.xlen with
  | rv32 => simp
  | rv64 =>
    rw [BitVec.getLsbD_or, getLsbD_maskIf, getLsbD_maskIf, hsxl, huxl, Bool.eq_iff_iff]
    simp

/-- Settles O24: `mstatusMask` is the table of R56, and SXL and UXL lie outside it. -/
theorem mstatusReadsAndWritesItsStoredBits : Obligations.MstatusReadsAndWritesItsStoredBits := by
  intro s
  refine ⟨fun hs n => ?_, fun t v h n => ?_⟩
  · show (s.mstatus ||| mstatusHardwired s.cfg).getLsbD n = _
    rw [BitVec.getLsbD_or, getLsbD_mstatusHardwired]
    by_cases hn : MstatusStores s.cfg n
    · have hfield : ¬(n = 35 ∨ n = 33) := by simp only [MstatusStores] at hn; omega
      rw [if_pos hn, decide_eq_false (by tauto), Bool.or_false]
    · rw [if_neg hn, hs.mstatus_within.bit_eq_false (by rw [getLsbD_mstatusMask, decide_eq_false hn]), Bool.false_or]
  · simp only [csrWrite, mstatusWrite] at h
    split at h
    · cases h
      simp only [getLsbD_mergeBits, getLsbD_mstatusMask, decide_eq_true_eq]
    · cases h

/-! ### `mip` -/

/-- Settles O47: the software bits lie beside the machine-level inputs, so that each bit of `mip` has its own sources. -/
theorem pendingBitsComeFromInputsAndSoftware : Obligations.PendingBitsComeFromInputsAndSoftware := by
  intro s hs n
  obtain ⟨b9, b8⟩ := getLsbD_controllerBits n
  have hsw (k : Nat) (hk : k ≠ 0 ∧ k ≠ 1 ∧ k ≠ 4 ∧ k ≠ 5 ∧ k ≠ 8 ∧ k ≠ 9) : s.mipSw.getLsbD k = false := by
    refine hs.mip_within.bit_eq_false ?_
    rw [mipSwMask_eq_midelegMask, getLsbD_midelegMask]
    simp [hk]
  have key : (mipRead s).getLsbD n = (s.mipSw.getLsbD n || ((s.env.meip && n == 11) || (s.env.mtip && n == 7) ||
      (s.env.msip && n == 3)) || ((s.cfg.hasS && s.env.seip && n == 9) || (s.cfg.hasN && s.env.ueip && n == 8))) := by
    simp only [mipRead, controllerPending, BitVec.getLsbD_or, getLsbD_maskIf, getLsbD_machinePending, b9, b8]
  rw [key]
  by_cases h11 : n = 11
  · rw [hsw n (by omega)]; simp [h11]
  by_cases h7 : n = 7
  · rw [hsw n (by omega)]; simp [h7]
  by_cases h3 : n = 3
  · rw [hsw n (by omega)]; simp [h3]
  by_cases h9 : n = 9
  · simp [h9]
  by_cases h8 : n = 8
  · simp [h8]
  by_cases hlow : n = 0 ∨ n = 1 ∨ n = 4 ∨ n = 5
  · rw [if_neg h11, if_neg h7, if_neg h3, if_neg h9, if_neg h8, if_pos hlow]
    simp only [beq_false_of_ne h11, beq_false_of_ne h7, beq_false_of_ne h3, beq_false_of_ne h9, beq_false_of_ne h8,
      Bool.and_false, Bool.or_false]
  · rw [hsw n (by omega)]; simp [h11, h7, h3, h9, h8, hlow]

end Sys2Proof.Machine
end

section
/-! Causes, performance counters and the constant registers (10_state.md R40 to R44, R70, R71, R76, R77). -/

namespace Sys2Proof.Machine

/-! ### Causes -/

/-- Settles O30: the codes by evaluation, the values by `causeValue_interrupt_toNat`, `causeValue_exception_toNat` and
`causeListed_iff`. -/
theorem listedCausesAreTheTrapCauses : Obligations.ListedCausesAreTheTrapCauses :=
  ⟨rfl, rfl, fun c => ⟨causeValue_interrupt_toNat c, causeValue_exception_toNat c, fun _ => causeListed_iff⟩⟩

/-- A register that holds a listed cause reads it (10_state.md R70). -/
theorem causeRead_of_listed {s : State} {p : Priv} {v : Word} (h : causeListed s.cfg v = true) : causeRead s p v = v := by
  rw [causeRead, if_pos h]

/-- Settles O31: the register holds the XLEN-bit value, which is listed. -/
theorem listedCausesReadBack : Obligations.ListedCausesReadBack := by
  intro s t v hlisted
  refine ⟨fun h => ?_, fun h => ?_⟩
  · cases h; exact causeRead_of_listed hlisted
  · cases h; exact causeRead_of_listed hlisted

/-! ### Legal accesses by CSR -/

/-- The operand check at a CSR's own address is the check of the CSR. -/
theorem accessLegal_csrAddress {s : State} {r : Csr} {w : Bool} (h : csrAccessLegal s r w = true) :
    AccessLegal s (csrAddress r) w r :=
  csrOperand_eq_some_iff.mp (csrOperand_eq_some.mpr ⟨csrAt_csrAddress r, h⟩)

/-- In M-mode an existing CSR other than `time` and `timeh` may be read, and written if it is not read-only (R28). -/
theorem csrAccessLegal_machine {s : State} {r : Csr} {w : Bool} (hp : s.priv = .M) (hpresent : csrPresent s.cfg r = true)
    (hro : w = true → csrReadOnly r = false) (htime : r ≠ .time) (htimeh : r ≠ .timeh) : csrAccessLegal s r w = true := by
  have hpriv : privLe (csrMinPriv r) .M = true := by cases csrMinPriv r <;> decide
  have hcounter : counterAccessPermitted s r = true := counterAccessPermitted_iff.mpr fun _ _ => .inl hp
  simp only [csrAccessLegal, hpresent, hp, hpriv, hcounter, timeTraps, beq_false_of_ne htime, beq_false_of_ne htimeh]
  cases w with
  | false => simp
  | true => simpa using hro rfl

/-! ### Performance counters -/

/-- The counter-enable bits above IR are 0 (10_state.md R73). -/
theorem Wf.mcounteren_high {s : State} (hs : Wf s) (k : Fin 29) : s.mcounteren.getLsbD (k.val + 3) = false := by
  have hmask : ∀ k : Fin 29, (7#32).getLsbD (k.val + 3) = false := by decide
  rw [← hs.counteren_legal.1, BitVec.getLsbD_and, hmask, Bool.and_false]

/-- Below M-mode no user performance counter may be accessed (11_state_supervisor_user_pmp.md R127, R128). -/
theorem Wf.hpmcounter_illegal {s : State} (hs : Wf s) (hp : s.priv ≠ .M) {k : Fin 29} {r : Csr} {w : Bool}
    (hr : r = .hpmcounter k ∨ r = .hpmcounterh k) : ¬∃ q, AccessLegal s (csrAddress r) w q := by
  rintro ⟨q, legal⟩
  obtain rfl : r = q := Option.some.inj ((csrAt_csrAddress r).symm.trans legal.found)
  have hbit : csrCounterBit r = some (k.val + 3) := by obtain rfl | rfl := hr <;> rfl
  have hzero := hs.mcounteren_high k
  obtain h | ⟨-, h⟩ | ⟨-, h, -⟩ := legal.counter _ hbit
  · exact hp h
  · rw [hzero] at h; cases h
  · rw [hzero] at h; cases h

/-- Settles O32: the accesses are legal in M-mode, and the counters' writes change nothing. -/
theorem performanceCountersReadZeroAndIgnoreWrites : Obligations.PerformanceCountersReadZeroAndIgnoreWrites := by
  intro s rd rs1 k r
  refine ⟨fun hp hr => ?_, fun hp hr => ?_, fun hs hp hr => ?_⟩
  · have legal : AccessLegal s (csrAddress r) true r := by
      obtain rfl | rfl | ⟨rfl, hx⟩ := hr
      · exact accessLegal_csrAddress (csrAccessLegal_machine hp rfl (fun _ => rfl) nofun nofun)
      · exact accessLegal_csrAddress (csrAccessLegal_machine hp rfl (fun _ => rfl) nofun nofun)
      · exact accessLegal_csrAddress (csrAccessLegal_machine hp (by simp [csrPresent, hx]) (fun _ => rfl) nofun nofun)
    have hzero : csrRead s r = 0#64 := by obtain rfl | rfl | ⟨rfl, -⟩ := hr <;> rfl
    have hwrite : ∀ u v, csrWrite u r v = .next u := by obtain rfl | rfl | ⟨rfl, -⟩ := hr <;> exact fun _ _ => rfl
    have hcount : csrIsInstret r = false := by obtain rfl | rfl | ⟨rfl, -⟩ := hr <;> rfl
    rw [exec_of_write rfl rfl legal (hwrite _ _), hzero]
    simp only [completeCsr, hcount, Bool.false_eq_true, if_false]
  · have legal : AccessLegal s (csrAddress r) false r := by
      obtain rfl | ⟨rfl, hx⟩ := hr
      · exact accessLegal_csrAddress (csrAccessLegal_machine hp rfl nofun nofun nofun)
      · exact accessLegal_csrAddress (csrAccessLegal_machine hp (by simp [csrPresent, hx]) nofun nofun nofun)
    have hzero : csrRead s r = 0#64 := by obtain rfl | ⟨rfl, -⟩ := hr <;> rfl
    rw [exec_of_read rfl rfl legal, hzero]
    rfl
  · exact exec_of_illegal rfl (csrOperand_eq_none_iff.mpr (hs.hpmcounter_illegal hp hr))

/-! ### Constant registers -/

/-- Truncation to XLEN bits as a remainder. -/
theorem toNat_truncXlen (c : Config) (v : Word) : (truncXlen c v).toNat = v.toNat % 2 ^ c.xlen.bits := by
  unfold truncXlen
  cases c.xlen with
  | rv32 =>
    have hmask : (0xFFFFFFFF#64).toNat = 2 ^ 32 - 1 := by decide
    rw [BitVec.toNat_and, hmask, Nat.and_two_pow_sub_one_eq_mod]
    rfl
  | rv64 => exact (Nat.mod_eq_of_lt v.isLt).symm

/-- `{JEDEC_BANK-1, JEDEC_MANUFACTURER_ID[6:0]}` as a number (10_state.md R41). -/
theorem toNat_vendorId (c : Config) : (vendorId c).toNat =
    ((c.jedecBank - 1) * 128 + c.jedecManufacturerId.toNat % 128) % 2 ^ c.xlen.bits := by
  have hmask : (0x7F#64).toNat = 2 ^ 7 - 1 := by decide
  have hid : (c.jedecManufacturerId.setWidth 64 &&& 0x7F#64).toNat = c.jedecManufacturerId.toNat % 128 := by
    have := c.jedecManufacturerId.isLt
    rw [BitVec.toNat_and, hmask, Nat.and_two_pow_sub_one_eq_mod, BitVec.toNat_setWidth]
    omega
  have hbank : (BitVec.ofNat 64 (c.jedecBank - 1) <<< 7).toNat = 2 ^ 7 * ((c.jedecBank - 1) % 2 ^ 57) := by
    rw [BitVec.toNat_shiftLeft, BitVec.toNat_ofNat, Nat.shiftLeft_eq]
    omega
  have hlt : c.jedecManufacturerId.toNat % 128 < 2 ^ 7 := Nat.mod_lt _ (by decide)
  rw [vendorId, toNat_truncXlen, BitVec.toNat_or, hbank, hid, ← Nat.two_pow_add_eq_or_of_lt hlt]
  cases c.xlen with
  | rv32 => simp only [Xlen.bits]; omega
  | rv64 => simp only [Xlen.bits]; omega

/-- The base field of `misa` lies above the extensions (10_state.md R40). -/
theorem toNat_or_setWidth_div (base : Word) (ext : BitVec 26) :
    (base ||| ext.setWidth 64).toNat / 2 ^ 26 = base.toNat / 2 ^ 26 := by
  have hext : (ext.setWidth 64).toNat / 2 ^ 26 = 0 := by
    have := ext.isLt
    rw [BitVec.toNat_setWidth]
    omega
  rw [BitVec.toNat_or, Nat.or_div_two_pow, hext, Nat.or_zero]

/-- A base field above bit 25 leaves the extensions in bits 25:0 (10_state.md R40). -/
theorem getLsbD_or_setWidth {base : Word} (hbase : ∀ n, n < 26 → base.getLsbD n = false) (ext : BitVec 26) {n : Nat}
    (hn : n < 26) : (base ||| ext.setWidth 64).getLsbD n = ext.getLsbD n := by
  rw [BitVec.getLsbD_or, hbase n hn, BitVec.getLsbD_setWidth, decide_eq_true (show n < 64 by omega), Bool.true_and,
    Bool.false_or]

/-- Settles O28: the fields of `mvendorid` and `misa` do not overlap. -/
theorem identityRegistersAreConstant : Obligations.IdentityRegistersAreConstant := by
  intro s
  refine ⟨toNat_vendorId s.cfg, fun hb hm => ?_, rfl, ?_, fun n hn => ?_, ?_, fun v => rfl⟩
  · apply BitVec.eq_of_toNat_eq
    show (vendorId s.cfg).toNat = _
    rw [toNat_vendorId, hb, hm]
    cases s.cfg.xlen <;> rfl
  · show (BitVec.ofNat 64 s.cfg.mimpid.val).toNat = _
    have := s.cfg.mimpid.isLt
    rw [BitVec.toNat_ofNat]
    omega
  · simp only [csrRead, misaValue]
    split
    · exact getLsbD_or_setWidth (fun k hk => by rw [getLsbD_one_shiftLeft]; simp; omega) _ hn
    · exact getLsbD_or_setWidth (fun k hk => by rw [BitVec.getLsbD_shiftLeft]; simp; omega) _ hn
  · simp only [csrRead, misaValue]
    split
    · next hx => rw [toNat_or_setWidth_div, if_pos hx]; rfl
    · next hx => rw [toNat_or_setWidth_div, hx]; rfl

/-- Settles O29: `mhartid` is readable in M-mode, and read-only. -/
theorem hartIdAlwaysReadsZero : Obligations.HartIdAlwaysReadsZero := by
  intro s rd rs1
  refine ⟨rfl, fun hp => ?_, ?_⟩
  · have legal : AccessLegal s (csrAddress .mhartid) false .mhartid :=
      accessLegal_csrAddress (csrAccessLegal_machine hp rfl nofun nofun nofun)
    have hzero : csrRead s .mhartid = 0#64 := rfl
    rw [exec_of_read rfl rfl legal, hzero]
  · refine exec_of_illegal rfl (csrOperand_eq_none_iff.mpr ?_)
    rintro ⟨q, legal⟩
    obtain rfl : Csr.mhartid = q := Option.some.inj ((csrAt_csrAddress .mhartid).symm.trans legal.found)
    exact legal.writable ⟨rfl, rfl⟩

end Sys2Proof.Machine
end

section
/-! Physical memory protection registers: the packing of the configuration CSRs, the write rules, and the locks that no step
breaks (11_state_supervisor_user_pmp.md R130 to R134). -/

namespace Sys2Proof.Machine

/-! ### The packing of the configuration bytes -/

theorem pmpBytesPerCsr_eq (c : Config) : pmpBytesPerCsr c = if c.xlen = .rv32 then 4 else 8 := by
  unfold pmpBytesPerCsr
  cases c.xlen <;> rfl

/-- A bit of a disjunction over a list is set where it is set in some member. -/
theorem getLsbD_foldr_or (f : Nat → Word) (l : List Nat) (n : Nat) :
    (l.foldr (fun j acc => f j ||| acc) 0#64).getLsbD n = l.any fun j => (f j).getLsbD n := by
  induction l with
  | nil => simp
  | cons j l ih => rw [List.foldr_cons, BitVec.getLsbD_or, ih, List.any_cons]

/-- A byte shifted to place `j` shows in bits `8j+7:8j` alone. -/
theorem getLsbD_byte_shiftLeft (b : BitVec 8) (j n : Nat) :
    (b.setWidth 64 <<< (8 * j)).getLsbD n = true ↔ n < 64 ∧ n / 8 = j ∧ b.getLsbD (n % 8) = true := by
  simp only [BitVec.getLsbD_shiftLeft, BitVec.getLsbD_setWidth, Bool.and_eq_true, Bool.not_eq_true', decide_eq_true_eq,
    decide_eq_false_iff_not]
  constructor
  · rintro ⟨⟨hn, hlow⟩, -, hbit⟩
    have hlt : n - 8 * j < 8 := BitVec.lt_of_getLsbD hbit
    refine ⟨hn, by omega, ?_⟩
    rwa [show n % 8 = n - 8 * j by omega]
  · rintro ⟨hn, hj, hbit⟩
    refine ⟨⟨hn, by omega⟩, by omega, ?_⟩
    rwa [show n - 8 * j = n % 8 by omega]

/-- Bit `n` of a configuration CSR is bit `n mod 8` of its byte `n / 8` (R130). -/
theorem getLsbD_pmpcfgRead (c : Config) (cfgs : Vector (BitVec 8) 16) (k : Fin 4) (n : Nat) :
    (pmpcfgRead c cfgs k).getLsbD n =
      (decide (n < 8 * pmpBytesPerCsr c) && (pmpcfgByte cfgs k (n / 8)).getLsbD (n % 8)) := by
  have hcount : pmpBytesPerCsr c ≤ 8 := by rw [pmpBytesPerCsr_eq]; split <;> decide
  rw [pmpcfgRead, getLsbD_foldr_or, Bool.eq_iff_iff]
  simp only [List.any_eq_true, List.mem_range, getLsbD_byte_shiftLeft, Bool.and_eq_true, decide_eq_true_eq]
  constructor
  · rintro ⟨j, hj, -, rfl, hbit⟩
    exact ⟨by omega, hbit⟩
  · rintro ⟨hn, hbit⟩
    exact ⟨n / 8, by omega, by omega, rfl, hbit⟩

/-- Byte `j` of a configuration CSR, where it has that many bytes (R130). -/
theorem extractByte_pmpcfgRead (c : Config) (cfgs : Vector (BitVec 8) 16) (k : Fin 4) {j : Nat}
    (hj : j < pmpBytesPerCsr c) : (pmpcfgRead c cfgs k).extractLsb' (8 * j) 8 = pmpcfgByte cfgs k j := by
  refine BitVec.eq_of_getLsbD_eq fun b hb => ?_
  have hbyte : (8 * j + b) / 8 = j := by omega
  have hbit : (8 * j + b) % 8 = b := by omega
  rw [BitVec.getLsbD_extractLsb', getLsbD_pmpcfgRead, hbyte, hbit, decide_eq_true hb,
    decide_eq_true (show 8 * j + b < 8 * pmpBytesPerCsr c by omega), Bool.true_and, Bool.true_and]

/-- Settles O34: the bytes of a configuration CSR do not overlap. -/
theorem pmpcfgCsrsPackTheirBytes : Obligations.PmpcfgCsrsPackTheirBytes := by
  intro s k j i hi hj
  have hlt : 4 * k.val + j < 16 := hi ▸ i.isLt
  obtain rfl : i = ⟨4 * k.val + j, hlt⟩ := Fin.ext hi
  rw [← pmpBytesPerCsr_eq] at hj
  show (pmpcfgRead s.cfg s.pmpcfg k).extractLsb' (8 * j) 8 = _
  rw [extractByte_pmpcfgRead s.cfg s.pmpcfg k hj, pmpcfgByte, dif_pos hlt]
  rfl

/-! ### The write rules -/

/-- A configuration byte takes a write where its entry is implemented and not locked (R134). -/
theorem pmpcfgWriteByte_eq (c : Config) (old : BitVec 8) (i : Nat) (b : BitVec 8) :
    pmpcfgWriteByte c old i b = if i < c.pmpCnt.val ∧ pmpL old = false then b &&& 0x9F#8 else old := by
  unfold pmpcfgWriteByte
  by_cases hi : c.pmpCnt.val ≤ i
  · rw [if_pos hi, if_neg (by omega)]
  · cases hl : pmpL old with
    | true => simp [hi]
    | false => simp [hi]

/-- A locked configuration byte ignores the write (R134). -/
theorem pmpcfgWriteByte_of_locked (c : Config) {old : BitVec 8} (h : pmpL old = true) (i : Nat) (b : BitVec 8) :
    pmpcfgWriteByte c old i b = old := by
  rw [pmpcfgWriteByte_eq, h, if_neg (by simp)]

/-- An address register takes a write where its entry is implemented and not locked and the next entry is not locked and TOR
(R134). -/
theorem pmpaddrIgnored_eq_false_iff (c : Config) (cfgs : Vector (BitVec 8) 16) (i : Fin 16) :
    pmpaddrIgnored c cfgs i = false ↔ i.val < c.pmpCnt.val ∧ pmpL cfgs[i] = false ∧
      ∀ n : Fin 16, n.val = i.val + 1 → ¬(pmpL cfgs[n] = true ∧ pmpA cfgs[n] = 1#2) := by
  simp only [pmpaddrIgnored, Bool.or_eq_false_iff, decide_eq_false_iff_not, not_le, and_assoc]
  refine and_congr_right fun _ => and_congr_right fun _ => ?_
  split
  · next hi =>
    rw [← Bool.not_eq_true, Bool.and_eq_true, beq_iff_eq]
    refine ⟨fun h n hn => ?_, fun h => h ⟨i.val + 1, hi⟩ rfl⟩
    obtain rfl : n = ⟨i.val + 1, hi⟩ := Fin.ext hn
    exact h
  · next hi => exact ⟨fun _ n hn => absurd n.isLt (by omega), fun _ => rfl⟩

theorem pmpaddrLegal_eq (c : Config) (v : Word) :
    pmpaddrLegal c v = v &&& (if c.xlen = .rv32 then 0xFFFFFFFF#64 else 0x3FFFFFFFFFFFFF#64) := by
  unfold pmpaddrLegal
  cases c.xlen <;> rfl

/-- Settles O33: the entries after a write of each of the two kinds of register. -/
theorem pmpWriteRules : Obligations.PmpWriteRules := by
  intro s v i
  refine ⟨fun k => ⟨_, rfl, ?_⟩, fun j => ⟨_, rfl, ?_⟩⟩
  · show (pmpcfgWrite s.cfg s.pmpcfg k v)[i] = _
    rw [getElem_pmpcfgWrite, pmpcfgWriteByte_eq, ← pmpBytesPerCsr_eq, ← ite_and]
    simp only [Bool.and_eq_true, decide_eq_true_eq, pmpL, and_assoc]
  · show (pmpaddrWrite s.cfg s.pmpcfg s.pmpaddr j v)[i] = _
    rw [getElem_pmpaddrWrite, pmpaddrLegal_eq]
    refine if_congr (and_congr_right ?_) rfl rfl
    rintro rfl
    exact pmpaddrIgnored_eq_false_iff ..

/-! ### Locks -/

/-- The address register of an entry is held by a lock: the entry's own, or that of a TOR entry above it (R134). -/
def PmpAddrHeld (cfgs : Vector (BitVec 8) 16) (i : Fin 16) : Prop :=
  pmpL cfgs[i] = true ∨ ∃ j : Fin 16, j.val = i.val + 1 ∧ pmpL cfgs[j] = true ∧ pmpA cfgs[j] = 1#2

/-- What the locks of a state hold is the same in the next state. -/
structure PmpLocksKept (s t : State) : Prop where
  cfg : ∀ i : Fin 16, pmpL s.pmpcfg[i] = true → t.pmpcfg[i] = s.pmpcfg[i]
  addr : ∀ i : Fin 16, PmpAddrHeld s.pmpcfg i → t.pmpaddr[i] = s.pmpaddr[i]

/-- An operation that leaves the PMP registers alone breaks no lock. -/
theorem PmpLocksKept.of_eq {s t : State} (hcfg : t.pmpcfg = s.pmpcfg) (haddr : t.pmpaddr = s.pmpaddr) :
    PmpLocksKept s t :=
  ⟨fun _ _ => by rw [hcfg], fun _ _ => by rw [haddr]⟩

/-- A write of an address register that a lock holds is ignored (R134). -/
theorem PmpAddrHeld.ignored {cfgs : Vector (BitVec 8) 16} {i : Fin 16} (h : PmpAddrHeld cfgs i) (c : Config) :
    pmpaddrIgnored c cfgs i = true := by
  rw [← Bool.not_eq_false, pmpaddrIgnored_eq_false_iff]
  rintro ⟨-, hown, hnext⟩
  obtain hlocked | ⟨j, hj, htor⟩ := h
  · rw [hown] at hlocked; cases hlocked
  · exact hnext j hj htor

/-- What a CSR write does to the PMP registers: a write of another CSR leaves both kinds alone (R130, R132). -/
theorem csrWrite_pmp {s t : State} {r : Csr} {v : Word} (h : csrWrite s r v = .next t) :
    (t.pmpcfg = s.pmpcfg ∧ t.pmpaddr = s.pmpaddr) ∨
      (∃ k, t.pmpcfg = pmpcfgWrite s.cfg s.pmpcfg k v ∧ t.pmpaddr = s.pmpaddr) ∨
      ∃ j, t.pmpcfg = s.pmpcfg ∧ t.pmpaddr = pmpaddrWrite s.cfg s.pmpcfg s.pmpaddr j v := by
  cases r
  case mstatus =>
    simp only [csrWrite, mstatusWrite] at h
    split at h
    · cases h; exact .inl ⟨rfl, rfl⟩
    · cases h
  case pmpcfg k => cases h; exact .inr (.inl ⟨k, rfl, rfl⟩)
  case pmpaddr j => cases h; exact .inr (.inr ⟨j, rfl, rfl⟩)
  all_goals (cases h; exact .inl ⟨rfl, rfl⟩)

/-- No CSR write breaks a lock (R134). -/
theorem csrWrite_pmpLocksKept {s t : State} {r : Csr} {v : Word} (h : csrWrite s r v = .next t) : PmpLocksKept s t := by
  obtain ⟨hcfg, haddr⟩ | ⟨k, hcfg, haddr⟩ | ⟨j, hcfg, haddr⟩ := csrWrite_pmp h
  · exact .of_eq hcfg haddr
  · refine ⟨fun i hi => ?_, fun _ _ => by rw [haddr]⟩
    rw [hcfg, getElem_pmpcfgWrite, pmpcfgWriteByte_of_locked _ hi, ite_self]
  · refine ⟨fun _ _ => by rw [hcfg], fun i hi => ?_⟩
    rw [haddr, getElem_pmpaddrWrite, if_neg]
    rintro ⟨rfl, htaken⟩
    rw [hi.ignored] at htaken
    cases htaken

/-- No instruction breaks a lock. -/
theorem exec_pmpLocksKept {i : Instr} {s t : State} (h : exec i s = .next t) : PmpLocksKept s t := by
  obtain rfl | hcsr | hret := exec_next h
  · exact .of_eq (takeTrap_pmpcfg ..) (takeTrap_pmpaddr ..)
  · cases hcsr with
    | read rd r legal => exact .of_eq (by simp) (by simp)
    | write rd r v u legal written =>
      obtain ⟨hcfg, haddr⟩ := csrWrite_pmpLocksKept written
      simp only [setX_pmpcfg, setX_pmpaddr] at hcfg haddr
      exact ⟨by simpa only [completeCsr_pmpcfg] using hcfg, by simpa only [completeCsr_pmpaddr] using haddr⟩
  · cases hret <;> exact .of_eq (returnFromTrap_pmpcfg ..) (returnFromTrap_pmpaddr ..)

/-- No step breaks a lock: traps and the change of inputs leave the PMP registers, and instructions respect the locks. -/
theorem step_pmpLocksKept {s s' : State} (h : step s = .next s') : PmpLocksKept s s' := by
  obtain ⟨-, t, rfl, ⟨i, -, rfl⟩ | ⟨-, ⟨e, -, rfl⟩ | ⟨bs, i, rest, -, -, hexec⟩⟩⟩ := step_next h
  · exact .of_eq (by simp [takeInterrupt]) (by simp [takeInterrupt])
  · exact .of_eq (by simp [raiseException]) (by simp [raiseException])
  · obtain ⟨hcfg, haddr⟩ := exec_pmpLocksKept hexec
    simp only [sampleInputs_pmpcfg, sampleInputs_pmpaddr] at hcfg haddr
    exact ⟨by simpa only [endStep_pmpcfg] using hcfg, by simpa only [endStep_pmpaddr] using haddr⟩

/-- Settles O57: the locks are kept by every CSR write, hence by every step. -/
theorem lockedPmpEntriesNeverChange : Obligations.LockedPmpEntriesNeverChange := by
  intro s s' i h
  have kept := step_pmpLocksKept h
  exact ⟨fun hi => ⟨kept.cfg i hi, kept.addr i (.inl hi)⟩, fun j hj hlock htor => kept.addr i (.inr ⟨j, hj, hlock, htor⟩)⟩

end Sys2Proof.Machine
end

section
/-! The supervisor and user views of `mstatus`, `mie` and `mip` (11_state_supervisor_user_pmp.md R100, R105 to R107, R115 to
R117). -/

namespace Sys2Proof.Machine

/-! ### Views as conditions on a bit -/

/-- A read through a view shows the register where the view has the bit. -/
theorem getLsbD_and_view {view : Word} {n : Nat} {P : Prop} [Decidable P] (hview : view.getLsbD n = decide P) (v : Word) :
    (v &&& view).getLsbD n = if P then v.getLsbD n else false := by
  rw [BitVec.getLsbD_and, hview]
  by_cases hP : P <;> simp [hP]

/-- A write through a view replaces the register where the view has the bit. -/
theorem getLsbD_mergeBits_view {view : Word} {n : Nat} {P : Prop} [Decidable P] (hview : view.getLsbD n = decide P)
    (old v : Word) : (mergeBits old v view).getLsbD n = if P then v.getLsbD n else old.getLsbD n := by
  simp only [getLsbD_mergeBits, hview, decide_eq_true_eq]

/-! ### `sstatus` and `ustatus` -/

/-- Among the bits that `sstatus` shows, those that `mstatus` stores (10_state.md R56). -/
theorem mstatusStores_iff_of_shown {c : Config} {n : Nat} (hn : n = 0 ∨ n = 1 ∨ n = 4 ∨ n = 5 ∨ n = 8 ∨ n = 18) :
    MstatusStores c n ↔
      (c.hasS = true ∧ (n = 1 ∨ n = 5 ∨ n = 8 ∨ n = 18)) ∨ (c.hasN = true ∧ (n = 0 ∨ n = 4)) := by
  constructor
  · rintro (h3 | h7 | h11 | h12 | ⟨-, h17⟩ | ⟨hS, hs⟩ | hu)
    · omega
    · omega
    · omega
    · omega
    · omega
    · exact .inl ⟨hS, by omega⟩
    · exact .inr hu
  · rintro (⟨hS, hs⟩ | hu)
    · exact .inr (.inr (.inr (.inr (.inr (.inl ⟨hS, by omega⟩)))))
    · exact .inr (.inr (.inr (.inr (.inr (.inr hu)))))

/-- The bits that `sstatus` can write (R100). -/
theorem getLsbD_sstatusWritable (c : Config) (n : Nat) : (sstatusBits &&& mstatusMask c).getLsbD n =
    decide ((c.hasS = true ∧ (n = 1 ∨ n = 5 ∨ n = 8 ∨ n = 18)) ∨ (c.hasN = true ∧ (n = 0 ∨ n = 4))) := by
  have hbits : sstatusBits.getLsbD n = (n == 0 || n == 1 || n == 4 || n == 5 || n == 8 || n == 18) := by
    simpa [Bool.or_assoc] using getLsbD_eq_any sstatusBits [0, 1, 4, 5, 8, 18] (by decide) (by decide) n
  rw [BitVec.getLsbD_and, getLsbD_mstatusMask, hbits, Bool.eq_iff_iff]
  simp only [Bool.and_eq_true, Bool.or_eq_true, beq_iff_eq, decide_eq_true_eq, or_assoc]
  constructor
  · rintro ⟨hn, hstored⟩
    exact (mstatusStores_iff_of_shown hn).mp hstored
  · intro hw
    have hn : n = 0 ∨ n = 1 ∨ n = 4 ∨ n = 5 ∨ n = 8 ∨ n = 18 := by omega
    exact ⟨hn, (mstatusStores_iff_of_shown hn).mpr hw⟩

/-- The bits that `ustatus` can write (R115). -/
theorem getLsbD_ustatusWritable (c : Config) (n : Nat) : (ustatusBits &&& mstatusMask c).getLsbD n =
    decide (c.hasN = true ∧ (n = 0 ∨ n = 4)) := by
  rw [BitVec.getLsbD_and, getLsbD_mstatusMask, ustatusBits, getLsbD_userStatusBits, Bool.eq_iff_iff]
  simp only [Bool.and_eq_true, Bool.or_eq_true, beq_iff_eq, decide_eq_true_eq]
  rw [and_comm]
  refine and_congr_left fun hn => ?_
  rw [mstatusStores_iff_of_shown (by omega), or_iff_right (by omega), and_iff_left hn]

/-- Settles O25: the written bits are `getLsbD_sstatusWritable` and `getLsbD_ustatusWritable`. -/
theorem statusViewsWriteOnlyTheirBits : Obligations.StatusViewsWriteOnlyTheirBits := by
  refine fun s => ⟨rfl, rfl, fun t v h n => ?_, fun t v h n => ?_⟩
  · cases h; exact getLsbD_mergeBits_view (getLsbD_sstatusWritable s.cfg n) s.mstatus v
  · cases h; exact getLsbD_mergeBits_view (getLsbD_ustatusWritable s.cfg n) s.mstatus v

/-! ### `sie`, `sip`, `uie` and `uip` -/

/-- `svis` is the supervisor view (R105). -/
theorem getLsbD_supervisorVisible (s : State) (n : Nat) :
    (supervisorVisible s).getLsbD n = decide (InSupervisorView s n) := by
  rw [supervisorVisible, BitVec.getLsbD_and, getLsbD_supervisorViewBits, Bool.eq_iff_iff]
  simp only [Bool.and_eq_true, Bool.or_eq_true, beq_iff_eq, decide_eq_true_eq, InSupervisorView, or_assoc]
  exact and_comm

/-- `uvis` is the user view: without S-mode `mideleg` alone delegates to U-mode (R116). -/
theorem getLsbD_userVisible (s : State) (n : Nat) : (userVisible s).getLsbD n = decide (InUserView s n) := by
  rw [userVisible, BitVec.getLsbD_and, getLsbD_userLevelBits, Bool.eq_iff_iff]
  simp only [Bool.and_eq_true, Bool.or_eq_true, beq_iff_eq, decide_eq_true_eq, InUserView, or_assoc]
  rw [and_comm]
  refine and_congr_right fun _ => ?_
  cases hS : s.cfg.hasS with
  | true => simp
  | false => simp

/-- The bits that `sip` can write: SSIP, USIP and UEIP where they are shown (R106). -/
theorem getLsbD_sipWritable (s : State) (n : Nat) : (supervisorVisible s &&& 0x103#64).getLsbD n =
    decide (InSupervisorView s n ∧ (n = 0 ∨ n = 1 ∨ n = 8)) := by
  have hbits : (0x103#64).getLsbD n = (n == 0 || n == 1 || n == 8) := by
    simpa [Bool.or_assoc] using getLsbD_eq_any 0x103#64 [0, 1, 8] (by decide) (by decide) n
  rw [BitVec.getLsbD_and, getLsbD_supervisorVisible, hbits, Bool.eq_iff_iff]
  simp only [Bool.and_eq_true, Bool.or_eq_true, beq_iff_eq, decide_eq_true_eq, or_assoc]

/-- The bit that `uip` can write: USIP where it is shown (R117). -/
theorem getLsbD_uipWritable (s : State) (n : Nat) :
    (userVisible s &&& 0x1#64).getLsbD n = decide (InUserView s n ∧ n = 0) := by
  have hbit : (0x1#64).getLsbD n = (n == 0) := by simpa using getLsbD_eq_any 0x1#64 [0] (by decide) (by decide) n
  rw [BitVec.getLsbD_and, getLsbD_userVisible, hbit, Bool.eq_iff_iff]
  simp only [Bool.and_eq_true, beq_iff_eq, decide_eq_true_eq]

/-- Settles O26: the reads and the writes go through `svis` and `uvis`. -/
theorem interruptViewsShowAndWriteOnlyDelegatedBits : Obligations.InterruptViewsShowAndWriteOnlyDelegatedBits := by
  intro s n
  have hsup := getLsbD_supervisorVisible s n
  have huser := getLsbD_userVisible s n
  refine ⟨getLsbD_and_view hsup _, getLsbD_and_view hsup _, getLsbD_and_view huser _, getLsbD_and_view huser _,
    fun t v => ⟨fun h => ?_, fun h => ?_, fun h => ?_, fun h => ?_⟩⟩
  · cases h; exact getLsbD_mergeBits_view hsup s.mie v
  · cases h; exact getLsbD_mergeBits_view huser s.mie v
  · cases h; exact getLsbD_mergeBits_view (getLsbD_sipWritable s n) s.mipSw v
  · cases h; exact getLsbD_mergeBits_view (getLsbD_uipWritable s n) s.mipSw v

end Sys2Proof.Machine
end

section
/-! The PMP check: the region of an entry in each address-matching mode, the first match, and the verdict (20_memory.md R171 to
R177). -/

namespace Sys2Proof.Machine

/-! ### The effective privilege -/

/-- Loads and stores alike: the mode MPP names under MPRV, else the current mode (R171). -/
theorem effectivePriv_of_data (s : State) {type : AccessType} (h : type = .load ∨ type = .store) :
    effectivePriv s type = if s.mstatus.getLsbD 17 then modeOfCode s.cfg (getMpp s.mstatus) else some s.priv := by
  obtain rfl | rfl := h <;> rfl

/-- Settles O52: MPRV selects between MPP and the current mode, and the code of an implemented mode names it. -/
theorem mprvSelectsTheAccessPrivilege : Obligations.MprvSelectsTheAccessPrivilege := by
  refine fun s => ⟨rfl, fun type htype => ?_⟩
  rw [effectivePriv_of_data s htype]
  refine ⟨fun hoff => ?_, fun hon y hy hmpp => ?_, fun hon hnone => ?_⟩
  · rw [hoff, if_neg Bool.false_ne_true]
  · rw [if_pos hon, hmpp, modeOfCode_privCode hy]
  · rw [if_pos hon, hnone]

/-! ### Trailing ones -/

theorem trailingOnes_le (n fuel : Nat) : trailingOnes n fuel ≤ fuel := by
  induction fuel generalizing n with
  | zero => exact Nat.le_refl 0
  | succ fuel ih =>
    rw [trailingOnes]
    split
    · exact Nat.succ_le_succ (ih _)
    · exact Nat.zero_le _

/-- Every bit below the count is 1. -/
theorem testBit_of_lt_trailingOnes {n fuel k : Nat} (h : k < trailingOnes n fuel) : n.testBit k = true := by
  induction fuel generalizing n k with
  | zero => exact absurd h (Nat.not_lt_zero k)
  | succ fuel ih =>
    rw [trailingOnes] at h
    split at h
    · next hodd =>
      cases k with
      | zero => rw [Nat.testBit_zero, decide_eq_true hodd]
      | succ k => rw [Nat.testBit_succ]; exact ih (Nat.lt_of_succ_lt_succ h)
    · exact absurd h (Nat.not_lt_zero k)

/-- The count stops short of its bound at a bit that is 0. -/
theorem testBit_trailingOnes {n fuel : Nat} (h : trailingOnes n fuel < fuel) :
    n.testBit (trailingOnes n fuel) = false := by
  induction fuel generalizing n with
  | zero => exact absurd h (Nat.not_lt_zero _)
  | succ fuel ih =>
    rw [trailingOnes] at h ⊢
    split at h
    · next hodd => rw [if_pos hodd, Nat.testBit_succ]; exact ih (Nat.lt_of_succ_lt_succ h)
    · next heven => rw [if_neg heven, Nat.testBit_zero, decide_eq_false heven]

/-! ### The region of an entry -/

theorem pmpRegion_off {s : State} {i : Fin 16} (h : pmpA s.pmpcfg[i] = 0#2) : pmpRegion s i = (0, 0) := by
  simp only [pmpRegion, h, if_true]

theorem pmpRegion_tor {s : State} {i : Fin 16} (h : pmpA s.pmpcfg[i] = 1#2) :
    pmpRegion s i = (if hi : 0 < i.val then 4 * (s.pmpaddr[i.val - 1]'(by omega)).toNat else 0,
      4 * s.pmpaddr[i].toNat) := by
  simp only [pmpRegion, h, if_true, if_neg (show ¬(1#2 = 0#2) by decide)]

theorem pmpRegion_na4 {s : State} {i : Fin 16} (h : pmpA s.pmpcfg[i] = 2#2) :
    pmpRegion s i = (4 * s.pmpaddr[i].toNat, 4 * s.pmpaddr[i].toNat + 4) := by
  simp only [pmpRegion, h, if_true, if_neg (show ¬(2#2 = 0#2) by decide), if_neg (show ¬(2#2 = 1#2) by decide)]

/-- The first byte of the naturally aligned range of `2^(t+3)` bytes around the word address `pa` (R173). -/
def napotBase (pa t : Nat) : Nat := 4 * (pa / 2 ^ (t + 1) * 2 ^ (t + 1))

theorem pmpRegion_napot {s : State} {i : Fin 16} (h : pmpA s.pmpcfg[i] = 3#2) :
    let t := trailingOnes s.pmpaddr[i].toNat (pmpaddrWidth s.cfg)
    pmpRegion s i = (napotBase s.pmpaddr[i].toNat t, napotBase s.pmpaddr[i].toNat t + 2 ^ (t + 3)) := by
  simp only [pmpRegion, h, napotBase, if_neg (show ¬(3#2 = 0#2) by decide), if_neg (show ¬(3#2 = 1#2) by decide),
    if_neg (show ¬(3#2 = 2#2) by decide)]

/-- The range of `2^(t+3)` bytes is naturally aligned and holds the byte address of `pa`. -/
theorem napotBase_spec (pa t : Nat) :
    2 ^ (t + 3) ∣ napotBase pa t ∧ napotBase pa t ≤ 4 * pa ∧ 4 * pa < napotBase pa t + 2 ^ (t + 3) := by
  have hsize : 2 ^ (t + 3) = 4 * 2 ^ (t + 1) := by rw [pow_add 2 t 3, pow_add 2 t 1]; omega
  have hlow : pa / 2 ^ (t + 1) * 2 ^ (t + 1) ≤ pa := Nat.div_mul_le_self ..
  have hhigh : pa < pa / 2 ^ (t + 1) * 2 ^ (t + 1) + 2 ^ (t + 1) := Nat.lt_div_mul_add (Nat.two_pow_pos _)
  unfold napotBase
  rw [hsize]
  exact ⟨Nat.mul_dvd_mul_left 4 (Nat.dvd_mul_left ..), by omega, by omega⟩

theorem pmpaddrWidth_eq (c : Config) : pmpaddrWidth c = if c.xlen = .rv32 then 32 else 54 := by
  unfold pmpaddrWidth
  cases c.xlen <;> rfl

/-- Settles O51: one region per mode; in NAPOT mode the witness is the model's own count of trailing ones. -/
theorem pmpRegionsFollowTheirMode : Obligations.PmpRegionsFollowTheirMode := by
  intro s i pa mode width
  refine ⟨fun h b => ?_, fun h => ?_, fun h => pmpRegion_na4 h, fun h => ?_⟩
  · rw [pmpRegion_off h]
    exact fun hb => Nat.not_lt_zero b hb.2
  · rw [pmpRegion_tor h]
    refine ⟨rfl, fun hi => dif_neg (by omega), fun j hj => ?_⟩
    have hprev : i.val - 1 = j.val := by omega
    simp only [show 0 < i.val by omega, dif_pos, hprev, Fin.getElem_fin]
  · rw [pmpRegion_napot h, show width = pmpaddrWidth s.cfg from (pmpaddrWidth_eq s.cfg).symm]
    obtain ⟨haligned, hlow, hhigh⟩ := napotBase_spec pa (trailingOnes pa (pmpaddrWidth s.cfg))
    exact ⟨_, trailingOnes_le .., fun _ => testBit_of_lt_trailingOnes, testBit_trailingOnes, rfl, haligned, hlow, hhigh⟩

/-! ### The first match and the verdict -/

/-- A region touches an access where the two share a byte (R172). -/
theorem regionTouches_iff (r : Nat × Nat) (addr n : Nat) :
    regionTouches r addr n = true ↔ ∃ b, addr ≤ b ∧ b < addr + n ∧ r.1 ≤ b ∧ b < r.2 := by
  rw [regionTouches, decide_eq_true_eq]
  constructor
  · exact fun h => ⟨max r.1 addr, by omega, by omega, by omega, by omega⟩
  · rintro ⟨b, hb⟩
    omega

/-- A region covers an access that has a byte where it holds every byte of it (R172). -/
theorem regionCovers_iff (r : Nat × Nat) (addr : Nat) {n : Nat} (hn : 0 < n) :
    regionCovers r addr n = true ↔ ∀ b, addr ≤ b → b < addr + n → r.1 ≤ b ∧ b < r.2 := by
  rw [regionCovers, Bool.and_eq_true, decide_eq_true_eq, decide_eq_true_eq]
  constructor
  · intro h b hlow hhigh
    omega
  · intro h
    have hfirst := h addr (by omega) (by omega)
    have hlast := h (addr + n - 1) (by omega) (by omega)
    omega

/-- The match is the lowest-numbered implemented entry that touches the access (R174). -/
theorem pmpMatch_eq_some_iff {s : State} {addr n : Nat} {i : Fin 16} :
    pmpMatch s addr n = some i ↔
      (i.val < s.cfg.pmpCnt.val ∧ regionTouches (pmpRegion s i) addr n = true) ∧
        ∀ j < i, ¬(j.val < s.cfg.pmpCnt.val ∧ regionTouches (pmpRegion s j) addr n = true) := by
  have hentries : pmpEntries = List.ofFn id := by decide
  have hfirst := List.find?_ofFn_eq_some_of_injective (i := i) (Function.injective_id (α := Fin 16))
    (p := fun i => i.val < s.cfg.pmpCnt.val && regionTouches (pmpRegion s i) addr n)
  simpa only [pmpMatch, hentries, id, Bool.and_eq_true, decide_eq_true_eq] using hfirst

/-- There is no match where no implemented entry touches the access (R174). -/
theorem pmpMatch_eq_none_of {s : State} {addr n : Nat}
    (h : ∀ i : Fin 16, i.val < s.cfg.pmpCnt.val → ¬regionTouches (pmpRegion s i) addr n = true) :
    pmpMatch s addr n = none := by
  rw [Option.eq_none_iff_forall_ne_some]
  intro i hi
  obtain ⟨⟨himpl, htouches⟩, -⟩ := pmpMatch_eq_some_iff.mp hi
  exact h i himpl htouches

/-- The verdict of a matching entry (R175): it covers the access, and M-mode meets it unlocked or its permission bit is set. -/
theorem pmpCheck_of_match {s : State} {addr n : Nat} {i : Fin 16} (h : pmpMatch s addr n = some i) (type : AccessType)
    (p : Priv) : pmpCheck s addr n type p = .ok ↔ regionCovers (pmpRegion s i) addr n = true ∧
      ((pmpL s.pmpcfg[i] = false ∧ p = .M) ∨ pmpPermits s.pmpcfg[i] type = true) := by
  have hopen : (!pmpL s.pmpcfg[i] && p == .M) = true ↔ pmpL s.pmpcfg[i] = false ∧ p = .M := by simp
  simp only [pmpCheck, h, hopen]
  cases regionCovers (pmpRegion s i) addr n with
  | false => simp
  | true =>
    simp only [Bool.not_true, Bool.false_eq_true, if_false, true_and]
    by_cases hm : pmpL s.pmpcfg[i] = false ∧ p = .M
    · rw [if_pos hm]
      exact iff_of_true rfl (.inl hm)
    · rw [if_neg hm, or_iff_right hm]
      cases pmpPermits s.pmpcfg[i] type <;> decide

/-- The verdict with no match (R176): M-mode passes, and every mode passes where no entry is implemented. -/
theorem pmpCheck_of_no_match {s : State} {addr n : Nat} (h : pmpMatch s addr n = none) (type : AccessType) (p : Priv) :
    pmpCheck s addr n type p = .ok ↔ p = .M ∨ s.cfg.pmpCnt.val = 0 := by
  simp only [pmpCheck, h, beq_iff_eq]
  by_cases hm : p = .M
  · simp [hm]
  · by_cases hcnt : s.cfg.pmpCnt.val = 0
    · simp [hcnt]
    · simp [hm, hcnt, Nat.one_le_iff_ne_zero]

/-- The permission bit of each access type, by position (11_state_supervisor_user_pmp.md R131). -/
theorem pmpPermits_eq (b : BitVec 8) (type : AccessType) :
    pmpPermits b type = b.getLsbD (match type with | .load => 0 | .store => 1 | .fetch => 2) := by
  cases type <;> rfl

/-- Settles O50: the first match decides by `pmpCheck_of_match`, and its absence by `pmpCheck_of_no_match`. -/
theorem pmpVerdictFollowsTheFirstMatch : Obligations.PmpVerdictFollowsTheFirstMatch := by
  intro s addr n type p shares
  have htouches (i : Fin 16) : regionTouches (pmpRegion s i) addr n = true ↔ shares i := regionTouches_iff ..
  constructor
  · intro i himpl hi hfirst
    have hmatch : pmpMatch s addr n = some i :=
      pmpMatch_eq_some_iff.mpr ⟨⟨himpl, (htouches i).mpr hi⟩, fun j hj hmj => hfirst j hj ((htouches j).mp hmj.2)⟩
    have hn : 0 < n := by obtain ⟨b, hlow, hhigh, -⟩ := hi; omega
    rw [pmpCheck_of_match hmatch, regionCovers_iff _ _ hn, pmpPermits_eq]
    rfl
  · intro hnone
    exact pmpCheck_of_no_match (pmpMatch_eq_none_of fun i himpl => mt (htouches i).mp (hnone i himpl)) type p

end Sys2Proof.Machine
end

section
/-! Checked accesses: what a read and a write answer, the failures of a fetch, and that no step stores (20_memory.md R161, R162,
R177, R183). -/

namespace Sys2Proof.Machine

/-! ### Checked reads and writes -/

/-- A run of bytes is absent exactly where one of its addresses is. -/
theorem memRead_eq_none_iff {m : Memory} {addr n : Nat} :
    memRead m addr n = none ↔ ∃ k, k < n ∧ Memory.readByte m (addr + k) = none := by
  induction n generalizing addr with
  | zero => simp [memRead]
  | succ n ih =>
    have hsplit : (∃ k, k < n + 1 ∧ Memory.readByte m (addr + k) = none) ↔
        Memory.readByte m addr = none ∨ memRead m (addr + 1) n = none := by
      rw [ih, Nat.exists_lt_succ_left]
      simp only [Nat.add_zero, Nat.add_assoc, Nat.add_comm 1]
    rw [hsplit, memRead]
    cases Memory.readByte m addr <;> cases memRead m (addr + 1) n <;> simp

section
variable {s : State} {addr n : Nat} {type : AccessType} {p : Priv} {bs : List Byte}

/-- A read that the check fails raises the fault of its type (R177). -/
theorem checkedRead_of_fail (hp : effectivePriv s type = some p) (hc : pmpCheck s addr n type p = .fail) :
    checkedRead s addr n type = .fault (accessFaultOf type) := by
  simp only [checkedRead, hp, hc]

/-- A permitted read of absent memory is refused (93_implementation_defined.md U9). -/
theorem checkedRead_of_absent (hp : effectivePriv s type = some p) (hc : pmpCheck s addr n type p = .ok)
    (hm : memRead s.mem addr n = none) : checkedRead s addr n type = .refused .absentMemory := by
  simp only [checkedRead, hp, hc, hm]

/-- A write that the check fails raises the store fault (R177). -/
theorem checkedWrite_of_fail (hp : effectivePriv s .store = some p) (hc : pmpCheck s addr bs.length .store p = .fail) :
    checkedWrite s addr bs = .fault .storeAccessFault := by
  simp only [checkedWrite, hp, hc]

/-- A permitted write where every byte is present stores the bytes (R161). -/
theorem checkedWrite_of_present (hp : effectivePriv s .store = some p)
    (hc : pmpCheck s addr bs.length .store p = .ok) (hm : memRead s.mem addr bs.length ≠ none) :
    checkedWrite s addr bs = .next { s with mem := memWrite s.mem addr bs } := by
  obtain ⟨old, hold⟩ := Option.ne_none_iff_exists'.mp hm
  simp only [checkedWrite, hp, hc, hold]

end

/-- Settles O53: the new memory is the old one with the bytes written, read back by `readByte_memWrite`. -/
theorem checkedAccessesObeyThePmp : Obligations.CheckedAccessesObeyThePmp := by
  intro s addr bs p hp
  have hload : effectivePriv s .load = some p := by
    rw [effectivePriv_of_data s (.inl rfl), ← effectivePriv_of_data s (.inr rfl), hp]
  refine ⟨checkedWrite_of_fail hp, checkedRead_of_fail hload, fun hok hpresent => ?_⟩
  have hmem : memRead s.mem addr bs.length ≠ none := by
    rw [Ne, memRead_eq_none_iff]
    rintro ⟨k, hk, hnone⟩
    exact absurd (hpresent k hk) (by rw [hnone]; decide)
  refine ⟨_, checkedWrite_of_present hp hok hmem, rfl, memWrite_wf addr bs, fun k hk => ?_, fun b hb => ?_⟩
  · rw [readByte_memWrite, if_pos (by omega), Nat.add_sub_cancel_left]
  · rw [readByte_memWrite, if_neg (by omega)]

/-! ### The fetch of a step -/

/-- Sampling the inputs does not bear on the PMP check. -/
theorem pmpCheck_sampleInputs (s : State) (addr n : Nat) (type : AccessType) (p : Priv) :
    pmpCheck (sampleInputs s) addr n type p = pmpCheck s addr n type p := rfl

section
variable {s : State} (hnmi : s.env.nmi = false) (hpick : pickInterrupt s = none)
include hnmi hpick

/-- Without an interrupt, a fetch that faults makes the step take the access fault with the pc as trap value (R302, R360). -/
theorem step_of_fetch_fault {e : Exception} (hfetch : fetchBytes (sampleInputs s) = .fault e) :
    step s = .next (endStep (raiseException (sampleInputs s) e s.pc 0#32)) := by
  have hsampled : pickInterrupt (sampleInputs s) = none := hpick
  simp only [step, hartStep, hnmi, Bool.false_eq_true, if_false, interruptOrExec, hsampled, fetchAndExec, hfetch]
  rfl

/-- Without an interrupt, a fetch without meaning leaves the step without meaning (R360). -/
theorem step_of_fetch_refused {r : Refusal} (hfetch : fetchBytes (sampleInputs s) = .refused r) : step s = .refused r := by
  have hsampled : pickInterrupt (sampleInputs s) = none := hpick
  simp only [step, hartStep, hnmi, Bool.false_eq_true, if_false, interruptOrExec, hsampled, fetchAndExec, hfetch]

end

/-- Settles O8: a fetch is a checked read of four bytes at the current mode. -/
theorem fetchFailuresTrapOrRefuse : Obligations.FetchFailuresTrapOrRefuse := by
  intro s hnmi hpick
  have hp : effectivePriv (sampleInputs s) .fetch = some s.priv := rfl
  refine ⟨fun hfail => ?_, fun hok habsent => ?_⟩
  · have hfetch : fetchBytes (sampleInputs s) = .fault .instructionAccessFault :=
      checkedRead_of_fail hp (by rwa [pmpCheck_sampleInputs])
    exact step_of_fetch_fault hnmi hpick hfetch
  · have hfetch : fetchBytes (sampleInputs s) = .refused .absentMemory :=
      checkedRead_of_absent hp (by rwa [pmpCheck_sampleInputs]) (memRead_eq_none_iff.mpr habsent)
    exact step_of_fetch_refused hnmi hpick hfetch

/-! ### No instruction and no step stores -/

/-- An instruction leaves the parameters and memory alone (R161): CSR writes reach the CSR file only. -/
theorem exec_keeps_cfg_mem {i : Instr} {s t : State} (h : exec i s = .next t) : t.cfg = s.cfg ∧ t.mem = s.mem := by
  obtain rfl | hcsr | hret := exec_next h
  · exact ⟨takeTrap_cfg .., takeTrap_mem ..⟩
  · cases hcsr with
    | read rd r legal => exact ⟨by simp, by simp⟩
    | write rd r v u legal written =>
      have hkeeps := csrWrite_keeps written
      exact ⟨by simp [hkeeps.cfg], by simp [hkeeps.mem]⟩
  · cases hret <;> exact ⟨returnFromTrap_cfg .., returnFromTrap_mem ..⟩

/-- A step leaves the parameters and memory alone (R161, R183). -/
theorem step_keeps_cfg_mem {s s' : State} (h : step s = .next s') : s'.cfg = s.cfg ∧ s'.mem = s.mem := by
  obtain ⟨-, t, rfl, ⟨i, -, rfl⟩ | ⟨-, ⟨e, -, rfl⟩ | ⟨bs, i, rest, -, -, hexec⟩⟩⟩ := step_next h
  · exact ⟨by simp [takeInterrupt], by simp [takeInterrupt]⟩
  · exact ⟨by simp [raiseException], by simp [raiseException]⟩
  · obtain ⟨hcfg, hmem⟩ := exec_keeps_cfg_mem hexec
    exact ⟨by rw [endStep_cfg, hcfg, sampleInputs_cfg], by rw [endStep_mem, hmem, sampleInputs_mem]⟩

/-- Settles O9: `step_keeps_cfg_mem`, and equal memories read alike. -/
theorem stepsNeverChangeMemory : Obligations.StepsNeverChangeMemory := by
  intro s s' h
  obtain ⟨hcfg, hmem⟩ := step_keeps_cfg_mem h
  exact ⟨hcfg, hmem, fun a => by rw [hmem]⟩

end Sys2Proof.Machine
end

section
/-! Encoding: the fields of an instruction word, the round trip between words and well-formed instructions, and the rows of the
opcode table as masks (30_encoding.md R200 to R207). -/

namespace Sys2Proof

/-! ### The fields of a word -/

@[simp] theorem fieldCsr_encodeFields (csr : CsrAddr) (f : BitVec 5) (f3 : BitVec 3) (rd : Reg) :
    fieldCsr (encodeFields csr f f3 rd) = csr :=
  BitVec.extractLsb'_append_eq_left

@[simp] theorem fieldRs1_encodeFields (csr : CsrAddr) (f : BitVec 5) (f3 : BitVec 3) (rd : Reg) :
    fieldRs1 (encodeFields csr f f3 rd) = f :=
  (BitVec.extractLsb'_append_eq_of_add_le (by decide)).trans BitVec.extractLsb'_append_eq_left

@[simp] theorem fieldFunct3_encodeFields (csr : CsrAddr) (f : BitVec 5) (f3 : BitVec 3) (rd : Reg) :
    fieldFunct3 (encodeFields csr f f3 rd) = f3 :=
  (BitVec.extractLsb'_append_eq_of_add_le (by decide)).trans <|
    (BitVec.extractLsb'_append_eq_of_add_le (by decide)).trans BitVec.extractLsb'_append_eq_left

@[simp] theorem fieldRd_encodeFields (csr : CsrAddr) (f : BitVec 5) (f3 : BitVec 3) (rd : Reg) :
    fieldRd (encodeFields csr f f3 rd) = rd :=
  (BitVec.extractLsb'_append_eq_of_add_le (by decide)).trans <|
    (BitVec.extractLsb'_append_eq_of_add_le (by decide)).trans <|
      (BitVec.extractLsb'_append_eq_of_add_le (by decide)).trans BitVec.extractLsb'_append_eq_left

@[simp] theorem fieldOpcode_encodeFields (csr : CsrAddr) (f : BitVec 5) (f3 : BitVec 3) (rd : Reg) :
    fieldOpcode (encodeFields csr f f3 rd) = opcodeSystem :=
  Laws.OpcodeIsSystem.encodeFields_opcode csr f f3 rd

/-- The opcode SYSTEM ends in `11`, as every 32-bit word does (R203, R207). -/
theorem lowBits_of_system {w : InstrWord} (h : fieldOpcode w = opcodeSystem) : w.extractLsb' 0 2 = 3#2 := by
  have hlow : w.extractLsb' 0 2 = (fieldOpcode w).extractLsb' 0 2 := by
    ext i hi
    simp [fieldOpcode, BitVec.getElem_extractLsb']
  rw [hlow, h]
  decide

/-- A SYSTEM word is made of its fields: the five fields of R200 cover all 32 bits. -/
theorem encodeFields_of_funct3 {w : InstrWord} {f3 : BitVec 3} (hop : fieldOpcode w = opcodeSystem)
    (h3 : fieldFunct3 w = f3) : encodeFields (fieldCsr w) (fieldRs1 w) f3 (fieldRd w) = w := by
  rw [encodeFields, ← hop, ← h3, fieldCsr, fieldRs1, fieldFunct3, fieldRd, fieldOpcode,
    BitVec.extractLsb'_append_extractLsb'_eq_extractLsb' (by omega),
    BitVec.extractLsb'_append_extractLsb'_eq_extractLsb' (by omega),
    BitVec.extractLsb'_append_extractLsb'_eq_extractLsb' (by omega),
    BitVec.extractLsb'_append_extractLsb'_eq_extractLsb' (by omega)]
  exact BitVec.extractLsb'_eq_self

/-- A word is the SYSTEM word of four fields exactly when it has them. -/
theorem eq_encodeFields_iff {w : InstrWord} {csr : CsrAddr} {f : BitVec 5} {f3 : BitVec 3} {rd : Reg} :
    w = encodeFields csr f f3 rd ↔
      fieldCsr w = csr ∧ fieldRs1 w = f ∧ fieldFunct3 w = f3 ∧ fieldRd w = rd ∧ fieldOpcode w = opcodeSystem := by
  constructor
  · rintro rfl
    simp
  · rintro ⟨rfl, rfl, h3, rfl, hop⟩
    exact (encodeFields_of_funct3 hop h3).symm

/-! ### Decoding and encoding agree -/

theorem isCounterAddr_iff {a : CsrAddr} : isCounterAddr a = true ↔
    a = 0xC00#12 ∨ a = 0xC80#12 ∨ a = 0xC01#12 ∨ a = 0xC81#12 ∨ a = 0xC02#12 ∨ a = 0xC82#12 := by
  simp [isCounterAddr, or_assoc]

theorem csrrs_wellFormed_iff {rd : Reg} {a : CsrAddr} {rs1 : Reg} :
    (Instr.csrrs rd a rs1).wellFormed = true ↔ ¬(rs1 = 0#5 ∧ isCounterAddr a = true) := by
  simp [Instr.wellFormed, imp_iff_not_or]

/-- Whichever name a `funct3` = 010 word gets, the term is well formed and spells that word again (R205). -/
theorem decodeReadSet_encodes (rd : Reg) (csr : CsrAddr) (rs1 : Reg) :
    (decodeReadSet rd csr rs1).wellFormed = true ∧ encode (decodeReadSet rd csr rs1) = encodeFields csr rs1 2#3 rd := by
  unfold decodeReadSet
  split_ifs <;> simp_all [Instr.wellFormed, encode, isCounterAddr]

/-- A well-formed CSRRS keeps its name (R205). -/
theorem decodeReadSet_of_wellFormed {rd : Reg} {csr : CsrAddr} {rs1 : Reg}
    (h : (Instr.csrrs rd csr rs1).wellFormed = true) : decodeReadSet rd csr rs1 = .csrrs rd csr rs1 := by
  rw [csrrs_wellFormed_iff, isCounterAddr_iff] at h
  unfold decodeReadSet
  split_ifs <;> simp_all

/-- What the decoder says of a `funct3` = 010 word (R204, R205). -/
theorem decodeWord_readSet (csr : CsrAddr) (rs1 : Reg) (rd : Reg) :
    decodeWord (encodeFields csr rs1 2#3 rd) = .ok (decodeReadSet rd csr rs1) := by
  simp [decodeWord, lowBits_of_system]

/-- Decoding the word of a well-formed instruction gives it back (R200 to R206). -/
theorem decodeWord_encode {i : Instr} (h : i.wellFormed = true) : decodeWord (encode i) = .ok i := by
  cases i with
  | csrrs rd csr rs1 => rw [encode, decodeWord_readSet, decodeReadSet_of_wellFormed h]
  | rdcycle rd => exact decodeWord_readSet ..
  | rdcycleh rd => exact decodeWord_readSet ..
  | rdtime rd => exact decodeWord_readSet ..
  | rdtimeh rd => exact decodeWord_readSet ..
  | rdinstret rd => exact decodeWord_readSet ..
  | rdinstreth rd => exact decodeWord_readSet ..
  | mret => decide
  | sret => decide
  | uret => decide
  | csrrw rd csr rs1 => simp [encode, decodeWord, lowBits_of_system]
  | csrrc rd csr rs1 => simp [encode, decodeWord, lowBits_of_system]
  | csrrwi rd csr zimm => simp [encode, decodeWord, lowBits_of_system]
  | csrrsi rd csr zimm => simp [encode, decodeWord, lowBits_of_system]
  | csrrci rd csr zimm => simp [encode, decodeWord, lowBits_of_system]

/-- The fixed words of R206 are decoded whole. -/
theorem decodeFixed_ok {w : InstrWord} {i : Instr} (h : decodeFixed w = .ok i) : i.wellFormed = true ∧ encode i = w := by
  unfold decodeFixed at h
  split_ifs at h with hm hs hu <;> cases h
  · exact ⟨rfl, hm.symm⟩
  · exact ⟨rfl, hs.symm⟩
  · exact ⟨rfl, hu.symm⟩

/-- A word that decodes is the word of the well-formed instruction it decodes to (R200 to R206). -/
theorem encode_of_decodeWord {w : InstrWord} {i : Instr} (h : decodeWord w = .ok i) :
    i.wellFormed = true ∧ encode i = w := by
  unfold decodeWord at h
  split_ifs at h with hlow hop h0 h1 h2 h3 h5 h6 h7
  all_goals rw [not_not] at hop
  · exact decodeFixed_ok h
  all_goals cases h
  · exact ⟨rfl, encodeFields_of_funct3 hop h1⟩
  · rw [← encodeFields_of_funct3 hop h2]
    simpa using decodeReadSet_encodes (fieldRd w) (fieldCsr w) (fieldRs1 w)
  · exact ⟨rfl, encodeFields_of_funct3 hop h3⟩
  · exact ⟨rfl, encodeFields_of_funct3 hop h5⟩
  · exact ⟨rfl, encodeFields_of_funct3 hop h6⟩
  · exact ⟨rfl, encodeFields_of_funct3 hop h7⟩

/-- Decode and encode are inverse to each other between the accepted words and the well-formed instructions. -/
theorem decodeWord_eq_ok_iff {w : InstrWord} {i : Instr} :
    decodeWord w = .ok i ↔ i.wellFormed = true ∧ encode i = w :=
  ⟨encode_of_decodeWord, by rintro ⟨hi, rfl⟩; exact decodeWord_encode hi⟩

/-- Settles O1: the round trip from the instruction. -/
theorem encodedInstructionsDecodeBack : Obligations.EncodedInstructionsDecodeBack :=
  fun _ => decodeWord_encode

/-- Settles O2: the round trip from the word. -/
theorem decodedWordsEncodeBack : Obligations.DecodedWordsEncodeBack :=
  fun _ _ => encode_of_decodeWord

/-- Settles O4: each word is the word of its instruction, and ECALL's word has `funct3` = 000 and is none of the three fixed
words. -/
theorem exampleWordsDecode : Obligations.ExampleWordsDecode :=
  ⟨decodeWord_encode (i := .csrrw 5#5 0x340#12 6#5) rfl, decodeWord_encode (i := .csrrs 0#5 0x304#12 7#5) rfl,
    decodeWord_encode (i := .csrrc 0#5 0x300#12 12#5) rfl, decodeWord_encode (i := .csrrwi 0#5 0x340#12 21#5) rfl,
    decodeWord_encode (i := .rdcycle 5#5) rfl, decodeWord_encode (i := .sret) rfl, by decide⟩

/-! ### What the decoder rejects -/

theorem decodeFixed_error {w : InstrWord} {e : DecodeError} (h : decodeFixed w = .error e) : e = .notInTable := by
  unfold decodeFixed at h
  split_ifs at h
  cases h
  rfl

/-- A 16-bit parcel is rejected as one (R207). -/
theorem decodeWord_parcel {w : InstrWord} (h : w.extractLsb' 0 2 ≠ 3#2) : decodeWord w = .error .parcel16 := by
  rw [decodeWord, if_pos h]

/-- A 32-bit word that does not decode is refused as a word of no row (R207). -/
theorem decodeWord_error {w : InstrWord} {e : DecodeError} (hlow : w.extractLsb' 0 2 = 3#2) (h : decodeWord w = .error e) :
    e = .notInTable := by
  rw [decodeWord, if_neg (not_not.mpr hlow)] at h
  split_ifs at h
  · cases h; rfl
  · exact decodeFixed_error h
  · cases h; rfl

/-! ### The rows of the table as masks -/

theorem fieldCsr_and (w m : InstrWord) : fieldCsr (w &&& m) = fieldCsr w &&& fieldCsr m := BitVec.extractLsb'_and
theorem fieldRs1_and (w m : InstrWord) : fieldRs1 (w &&& m) = fieldRs1 w &&& fieldRs1 m := BitVec.extractLsb'_and
theorem fieldFunct3_and (w m : InstrWord) : fieldFunct3 (w &&& m) = fieldFunct3 w &&& fieldFunct3 m := BitVec.extractLsb'_and
theorem fieldRd_and (w m : InstrWord) : fieldRd (w &&& m) = fieldRd w &&& fieldRd m := BitVec.extractLsb'_and
theorem fieldOpcode_and (w m : InstrWord) : fieldOpcode (w &&& m) = fieldOpcode w &&& fieldOpcode m := BitVec.extractLsb'_and

/-- The mask of the rows of R204 compares `funct3` and the opcode. -/
theorem and_rowMask_eq_iff {w : InstrWord} {f3 : BitVec 3} :
    w &&& 0x707F#32 = encodeFields 0#12 0#5 f3 0#5 ↔ fieldFunct3 w = f3 ∧ fieldOpcode w = opcodeSystem := by
  have hcsr : fieldCsr 0x707F#32 = 0#12 := by decide
  have hrs1 : fieldRs1 0x707F#32 = 0#5 := by decide
  have hf3 : fieldFunct3 0x707F#32 = BitVec.allOnes 3 := by decide
  have hrd : fieldRd 0x707F#32 = 0#5 := by decide
  have hop : fieldOpcode 0x707F#32 = BitVec.allOnes 7 := by decide
  rw [eq_encodeFields_iff, fieldCsr_and, fieldRs1_and, fieldFunct3_and, fieldRd_and, fieldOpcode_and, hcsr, hrs1, hf3, hrd, hop]
  simp only [BitVec.and_allOnes, BitVec.and_zero, true_and]

theorem encodeFields_and_rowMask (csr : CsrAddr) (f : BitVec 5) (f3 : BitVec 3) (rd : Reg) :
    encodeFields csr f f3 rd &&& 0x707F#32 = encodeFields 0#12 0#5 f3 0#5 :=
  and_rowMask_eq_iff.mpr ⟨fieldFunct3_encodeFields .., fieldOpcode_encodeFields ..⟩

/-- The mask of the counter rows of R205 compares every field but `rd`. -/
theorem and_counterMask_eq_iff {w : InstrWord} {csr : CsrAddr} :
    w &&& 0xFFFFF07F#32 = encodeFields csr 0#5 2#3 0#5 ↔
      fieldCsr w = csr ∧ fieldRs1 w = 0#5 ∧ fieldFunct3 w = 2#3 ∧ fieldOpcode w = opcodeSystem := by
  have hcsr : fieldCsr 0xFFFFF07F#32 = BitVec.allOnes 12 := by decide
  have hrs1 : fieldRs1 0xFFFFF07F#32 = BitVec.allOnes 5 := by decide
  have hf3 : fieldFunct3 0xFFFFF07F#32 = BitVec.allOnes 3 := by decide
  have hrd : fieldRd 0xFFFFF07F#32 = 0#5 := by decide
  have hop : fieldOpcode 0xFFFFF07F#32 = BitVec.allOnes 7 := by decide
  rw [eq_encodeFields_iff, fieldCsr_and, fieldRs1_and, fieldFunct3_and, fieldRd_and, fieldOpcode_and, hcsr, hrs1, hf3, hrd, hop]
  simp only [BitVec.and_allOnes, BitVec.and_zero, true_and]

section
variable {w : InstrWord}

/-- A row of R204 whose every term is well formed: `c` is the row's constructor. -/
theorem decodeWord_row_iff (c : Reg → CsrAddr → BitVec 5 → Instr) (f3 : BitVec 3)
    (hc : ∀ rd csr f, (c rd csr f).wellFormed = true ∧ encode (c rd csr f) = encodeFields csr f f3 rd) :
    (∃ rd csr f, decodeWord w = .ok (c rd csr f)) ↔ w &&& 0x707F#32 = encodeFields 0#12 0#5 f3 0#5 := by
  simp only [decodeWord_eq_ok_iff, hc, true_and, and_rowMask_eq_iff]
  constructor
  · rintro ⟨rd, csr, f, rfl⟩
    simp
  · rintro ⟨h3, hop⟩
    exact ⟨_, _, _, encodeFields_of_funct3 hop h3⟩

/-- A counter row of R205: `c` is its constructor and `csr` its counter's address. -/
theorem decodeWord_counter_iff (c : Reg → Instr) (csr : CsrAddr)
    (hc : ∀ rd, (c rd).wellFormed = true ∧ encode (c rd) = encodeFields csr 0#5 2#3 rd) :
    (∃ rd, decodeWord w = .ok (c rd)) ↔ w &&& 0xFFFFF07F#32 = encodeFields csr 0#5 2#3 0#5 := by
  simp only [decodeWord_eq_ok_iff, hc, true_and, and_counterMask_eq_iff]
  constructor
  · rintro ⟨rd, rfl⟩
    simp
  · rintro ⟨rfl, hrs1, h3, hop⟩
    exact ⟨_, hrs1 ▸ encodeFields_of_funct3 hop h3⟩

/-- The CSRRS row of R204: the words of its mask that are no counter's word (R205, log entry 2). -/
theorem decodeWord_csrrs_iff :
    (∃ rd csr f, decodeWord w = .ok (.csrrs rd csr f)) ↔ w &&& 0x707F#32 = encodeFields 0#12 0#5 2#3 0#5 ∧
      ∀ csr, isCounterAddr csr = true → w &&& 0xFFFFF07F#32 ≠ encodeFields csr 0#5 2#3 0#5 := by
  simp only [decodeWord_eq_ok_iff, csrrs_wellFormed_iff, and_rowMask_eq_iff, ne_eq, and_counterMask_eq_iff]
  constructor
  · rintro ⟨rd, csr, f, hwf, rfl⟩
    simp only [encode, fieldFunct3_encodeFields, fieldOpcode_encodeFields, fieldCsr_encodeFields, fieldRs1_encodeFields,
      and_true, true_and]
    exact fun a ha ⟨hcsr, hf⟩ => hwf ⟨hf, hcsr ▸ ha⟩
  · rintro ⟨⟨h3, hop⟩, hcounter⟩
    exact ⟨_, _, _, fun ⟨hf, ha⟩ => hcounter _ ha ⟨rfl, hf, h3, hop⟩, encodeFields_of_funct3 hop h3⟩

/-- A well-formed instruction is decoded from its own word alone: for an xRET, the fixed word of R206. -/
theorem decodeWord_eq_ok_iff_eq_encode {i : Instr} (hi : i.wellFormed = true) : decodeWord w = .ok i ↔ w = encode i := by
  rw [decodeWord_eq_ok_iff, eq_comm (a := w)]
  exact and_iff_right hi

end

/-- Settles O3: each row's `match` is the word of its instruction with the fields outside `mask` 0. -/
theorem wordsMatchTheirTableRows : Obligations.WordsMatchTheirTableRows := by
  intro w
  refine ⟨decodeWord_row_iff .csrrw 1#3 fun _ _ _ => ⟨rfl, rfl⟩, ?csrrs,
    decodeWord_row_iff .csrrc 3#3 fun _ _ _ => ⟨rfl, rfl⟩,
    decodeWord_row_iff .csrrwi 5#3 fun _ _ _ => ⟨rfl, rfl⟩,
    decodeWord_row_iff .csrrsi 6#3 fun _ _ _ => ⟨rfl, rfl⟩,
    decodeWord_row_iff .csrrci 7#3 fun _ _ _ => ⟨rfl, rfl⟩,
    decodeWord_eq_ok_iff_eq_encode rfl, decodeWord_eq_ok_iff_eq_encode rfl, decodeWord_eq_ok_iff_eq_encode rfl,
    decodeWord_counter_iff .rdcycle 0xC00#12 fun _ => ⟨rfl, rfl⟩,
    decodeWord_counter_iff .rdcycleh 0xC80#12 fun _ => ⟨rfl, rfl⟩,
    decodeWord_counter_iff .rdtime 0xC01#12 fun _ => ⟨rfl, rfl⟩,
    decodeWord_counter_iff .rdtimeh 0xC81#12 fun _ => ⟨rfl, rfl⟩,
    decodeWord_counter_iff .rdinstret 0xC02#12 fun _ => ⟨rfl, rfl⟩,
    decodeWord_counter_iff .rdinstreth 0xC82#12 fun _ => ⟨rfl, rfl⟩⟩
  case csrrs =>
    rw [decodeWord_csrrs_iff]
    simp only [isCounterAddr_iff, forall_eq_or_imp, forall_eq]
    exact Iff.rfl

end Sys2Proof
end

section
/-! Words and parcels outside the table: the step that fetches one has no meaning (30_encoding.md R207). -/

namespace Sys2Proof.Machine

/-! ### Words that match no row -/

/-- The counter words are CSRRS words (R205). -/
theorem matchesTable_readSet (csr : CsrAddr) (f : BitVec 5) (rd : Reg) : MatchesTable (encodeFields csr f 2#3 rd) :=
  .inr (.inl (encodeFields_and_rowMask ..))

/-- The word of every instruction matches a row (R204 to R206). -/
theorem matchesTable_encode (i : Instr) : MatchesTable (encode i) := by
  cases i with
  | csrrw rd csr rs1 => exact .inl (encodeFields_and_rowMask ..)
  | csrrs rd csr rs1 => exact matchesTable_readSet ..
  | csrrc rd csr rs1 => exact .inr (.inr (.inl (encodeFields_and_rowMask ..)))
  | csrrwi rd csr zimm => exact .inr (.inr (.inr (.inl (encodeFields_and_rowMask ..))))
  | csrrsi rd csr zimm => exact .inr (.inr (.inr (.inr (.inl (encodeFields_and_rowMask ..)))))
  | csrrci rd csr zimm => exact .inr (.inr (.inr (.inr (.inr (.inl (encodeFields_and_rowMask ..))))))
  | mret => exact .inr (.inr (.inr (.inr (.inr (.inr (.inl rfl))))))
  | sret => exact .inr (.inr (.inr (.inr (.inr (.inr (.inr (.inl rfl)))))))
  | uret => exact .inr (.inr (.inr (.inr (.inr (.inr (.inr (.inr rfl)))))))
  | rdcycle rd => exact matchesTable_readSet ..
  | rdcycleh rd => exact matchesTable_readSet ..
  | rdtime rd => exact matchesTable_readSet ..
  | rdtimeh rd => exact matchesTable_readSet ..
  | rdinstret rd => exact matchesTable_readSet ..
  | rdinstreth rd => exact matchesTable_readSet ..

/-- A 32-bit word that matches no row does not decode (R207): an instruction it decoded to would put it in a row. -/
theorem decodeWord_of_not_matchesTable {w : InstrWord} (hlow : w.extractLsb' 0 2 = 3#2) (h : ¬MatchesTable w) :
    decodeWord w = .error .notInTable := by
  cases hd : decodeWord w with
  | ok i =>
    obtain ⟨-, rfl⟩ := encode_of_decodeWord hd
    exact absurd (matchesTable_encode i) h
  | error e => rw [decodeWord_error hlow hd]

/-! ### The step that fetches such a word -/

/-- The decoder reads from a word's bytes what it reads from the word (20_memory.md R162). -/
theorem decodeBytes_wordBytes (w : InstrWord) : decodeBytes (wordBytes w) = (decodeWord w).map fun i => (i, []) := by
  obtain ⟨hbytes, hword⟩ := bytesWord_wordBytes w
  rw [hbytes, decodeBytes, hword]
  cases decodeWord w <;> rfl

/-- Memory that holds a word answers a read of four bytes with the word's bytes (20_memory.md R162). -/
theorem HoldsWord.memRead {m : Memory} {addr : Nat} {w : InstrWord} (h : HoldsWord m addr w) :
    memRead m addr 4 = some (wordBytes w) :=
  memRead_eq_some.mpr ⟨rfl, h⟩

/-- A permitted read where memory holds every byte answers the bytes (R161, R177). -/
theorem checkedRead_of_present {s : State} {addr n : Nat} {type : AccessType} {p : Priv} {bs : List Byte}
    (hp : effectivePriv s type = some p) (hc : pmpCheck s addr n type p = .ok) (hm : memRead s.mem addr n = some bs) :
    checkedRead s addr n type = .next bs := by
  simp only [checkedRead, hp, hc, hm]

/-- A ready state fetches the bytes of its word. -/
theorem Ready.fetchBytes {s : State} {w : InstrWord} (h : Ready s w) :
    fetchBytes (sampleInputs s) = .next (wordBytes w) := by
  have hp : effectivePriv (sampleInputs s) .fetch = some s.priv := rfl
  have hcheck : pmpCheck (sampleInputs s) s.pc.toNat 4 .fetch s.priv = .ok := h.fetch_permitted
  exact checkedRead_of_present hp hcheck h.word_present.memRead

/-- A ready state whose word does not decode refuses the step, by the name of the decoder's error (R207, R360). -/
theorem Ready.step_refused {s : State} {w : InstrWord} {e : DecodeError} (h : Ready s w) (hd : decodeWord w = .error e) :
    step s = .refused (refusalOf e) := by
  have hsampled : pickInterrupt (sampleInputs s) = none := h.no_interrupt
  have hbytes : decodeBytes (wordBytes w) = .error e := by rw [decodeBytes_wordBytes, hd]; rfl
  simp only [step, hartStep, h.nmi_quiet, Bool.false_eq_true, if_false, interruptOrExec, hsampled, fetchAndExec, h.fetchBytes,
    hbytes]

/-- Settles O5: a parcel and a word of no row are the decoder's two errors, and the step refuses under their names. -/
theorem wordsOutsideTheTableAreRefused : Obligations.WordsOutsideTheTableAreRefused := by
  intro s w h
  exact ⟨fun hlow => h.step_refused (decodeWord_parcel hlow),
    fun hlow hrow => h.step_refused (decodeWord_of_not_matchesTable hlow hrow)⟩

end Sys2Proof.Machine
end

section
/-! The six CSR instructions that can write, and the frame of all twelve (40_csr_instructions.md R230 to R237). -/

namespace Sys2Proof.Machine

/-! ### Completion of a legal access -/

/-- A CSR write neither looks at the integer registers nor changes them, so the write of `rd` that the sequence makes first may
as well come last (40_csr_instructions.md R230). -/
theorem csrWrite_setX {s u : State} {r : Csr} {v : Word} (h : csrWrite s r v = .next u) (rd : Reg) (x : Word) :
    csrWrite (setX s rd x) r v = .next (setX u rd x) := by
  unfold setX
  by_cases hrd : rd = 0#5
  · rw [if_pos hrd, if_pos hrd, h]
  · rw [if_neg hrd, if_neg hrd]
    cases r
    case mstatus =>
      simp only [csrWrite, mstatusWrite] at h ⊢
      split at h
      · next hmpp => cases h; exact if_pos hmpp
      · cases h
    all_goals (cases h; rfl)

/-- What an instruction does on a legal access: it reads, and where it will write it writes what it computes from the
read-modify-write base (40_csr_instructions.md R230). -/
theorem exec_of_accessLegal {i : Instr} {s : State} {a : CsrAddr} {w : Bool} {rd : Reg} {r : Csr}
    (hu : csrUse s.cfg i = some (a, w)) (hd : destination i = some rd) (hlegal : AccessLegal s a w r) :
    (w = false → exec i s = .next (completeCsr (setX s rd (csrRead s r)) none)) ∧
    (w = true → (r = .mstatus → mppLegal s.cfg (getMpp (csrNew s i (csrRmwBase s r))) = true) →
      ∃ u, csrWrite s r (csrNew s i (csrRmwBase s r)) = .next u ∧
        exec i s = .next (completeCsr (setX u rd (csrRead s r)) (some r))) := by
  constructor
  · rintro rfl
    exact exec_of_read hu hd hlegal
  · rintro rfl hmpp
    obtain ⟨u, hwrite⟩ := csrWrite_next s r _ hmpp
    exact ⟨u, hwrite, exec_of_write hu hd hlegal (csrWrite_setX hwrite rd _)⟩

/-! ### The read-modify-write base -/

/-- The controller's signals show in bits 9 and 8 alone (10_state.md R65). -/
theorem getLsbD_controllerPending_of_ne (s : State) {n : Nat} (h8 : n ≠ 8) (h9 : n ≠ 9) :
    (controllerPending s).getLsbD n = false := by
  obtain ⟨b9, b8⟩ := getLsbD_controllerBits n
  simp [controllerPending, b9, b8, h8, h9]

/-- The base of `mip`: its bits 9 and 8 without the controller's signals, every other bit as read (10_state.md R31). -/
theorem getLsbD_mipBase (s : State) (n : Nat) : (mipBase s).getLsbD n = pendingToModify s n := by
  unfold pendingToModify
  split
  · next h =>
    have hmachine : (machinePending s).getLsbD n = false := by
      rw [getLsbD_machinePending]
      obtain rfl | rfl := h <;> simp
    rw [mipBase, BitVec.getLsbD_or, hmachine, Bool.or_false]
  · next h =>
    obtain ⟨h8, h9⟩ := not_or.mp h
    simp only [csrRead, mipRead, mipBase, BitVec.getLsbD_or, getLsbD_controllerPending_of_ne s h8 h9, Bool.or_false]

/-- A view of `mip` modifies the visible bits of the base of `mip`. -/
theorem getLsbD_mipBase_view {s : State} {view : Word} {n : Nat} {P : Prop} [Decidable P]
    (hview : view.getLsbD n = decide P) : (mipBase s &&& view).getLsbD n = if P then pendingToModify s n else false := by
  rw [BitVec.getLsbD_and, getLsbD_mipBase, hview]
  by_cases h : P <;> simp [h]

/-- `csrRmwBase` is the base that 10_state.md R31 describes. -/
theorem isRmwBase_csrRmwBase (s : State) (r : Csr) : IsRmwBase s r (csrRmwBase s r) := by
  refine ⟨fun hmip hsip huip => ?_, ?_, ?_, ?_⟩
  · cases r <;> first | rfl | contradiction
  · rintro rfl n - - -
    exact getLsbD_mipBase s n
  · rintro rfl n
    exact getLsbD_mipBase_view (getLsbD_supervisorVisible s n)
  · rintro rfl n
    exact getLsbD_mipBase_view (getLsbD_userVisible s n)

/-! ### The six instructions -/

/-- Settles O12: CSRRW always writes. -/
theorem csrrwSwapsRegisterAndCsr : Obligations.CsrrwSwapsRegisterAndCsr := fun _ rd a rs1 _ hlegal =>
  (exec_of_accessLegal (i := .csrrw rd a rs1) rfl rfl hlegal).2 rfl

/-- Settles O13: the `rs1` field decides between the two clauses of `exec_of_accessLegal`. -/
theorem csrrsSetsBits : Obligations.CsrrsSetsBits := by
  intro s rd a rs1 r hlegal
  obtain ⟨reads, writes⟩ := exec_of_accessLegal (i := .csrrs rd a rs1) rfl rfl hlegal
  exact ⟨isRmwBase_csrRmwBase s r, fun h => reads (bne_eq_false_iff_eq.mpr h), fun h => writes (bne_iff_ne.mpr h)⟩

/-- Settles O14, as for CSRRS. -/
theorem csrrcClearsBits : Obligations.CsrrcClearsBits := by
  intro s rd a rs1 r hlegal
  obtain ⟨reads, writes⟩ := exec_of_accessLegal (i := .csrrc rd a rs1) rfl rfl hlegal
  exact ⟨isRmwBase_csrRmwBase s r, fun h => reads (bne_eq_false_iff_eq.mpr h), fun h => writes (bne_iff_ne.mpr h)⟩

/-- Settles O15: the immediate and `CSRRWI_ZIMM0_WRITES` decide between the two clauses. -/
theorem csrrwiWritesTheImmediate : Obligations.CsrrwiWritesTheImmediate := by
  intro s rd a z r hlegal
  obtain ⟨reads, writes⟩ := exec_of_accessLegal (i := .csrrwi rd a z) rfl rfl hlegal
  exact ⟨fun hz hparam => reads (by simp [hz, hparam]), fun h => writes (by simpa using h)⟩

/-- Settles O16: the immediate decides between the two clauses. -/
theorem csrrsiSetsImmediateBits : Obligations.CsrrsiSetsImmediateBits := by
  intro s rd a z r hlegal
  obtain ⟨reads, writes⟩ := exec_of_accessLegal (i := .csrrsi rd a z) rfl rfl hlegal
  exact ⟨isRmwBase_csrRmwBase s r, fun h => reads (bne_eq_false_iff_eq.mpr h), fun h => writes (bne_iff_ne.mpr h)⟩

/-- Settles O17, as for CSRRSI. -/
theorem csrrciClearsImmediateBits : Obligations.CsrrciClearsImmediateBits := by
  intro s rd a z r hlegal
  obtain ⟨reads, writes⟩ := exec_of_accessLegal (i := .csrrci rd a z) rfl rfl hlegal
  exact ⟨isRmwBase_csrRmwBase s r, fun h => reads (bne_eq_false_iff_eq.mpr h), fun h => writes (bne_iff_ne.mpr h)⟩

/-! ### Frame -/

/-- An address names one CSR. -/
theorem AccessLegal.unique {s : State} {a : CsrAddr} {w w' : Bool} {r q : Csr} (h : AccessLegal s a w r)
    (h' : AccessLegal s a w' q) : r = q :=
  Option.some.inj (h.found.symm.trans h'.found)

/-- Integer registers are no part of the CSR file. -/
@[simp] theorem cellValue_setX (s : State) (rd : Reg) (v : Word) (c : Cell) :
    cellValue (setX s rd v) c = cellValue s c := by
  cases c <;> simp [cellValue]

/-- Completing a CSR instruction reaches no cell but the retirement count. -/
theorem cellValue_completeCsr (s : State) (wrote : Option Csr) {c : Cell} (hc : c ≠ .minstret) :
    cellValue (completeCsr s wrote) c = cellValue s c := by
  cases c <;> first | contradiction | simp [cellValue]

/-- A legal access that completes did so from a state `u` in which `rd` and the cell behind the CSR alone were written. -/
theorem exec_completes {i : Instr} {s t : State} {a : CsrAddr} {w : Bool} {r : Csr} (hu : csrUse s.cfg i = some (a, w))
    (hlegal : AccessLegal s a w r) (hexec : exec i s = .next t) :
    ∃ rd u wrote, destination i = some rd ∧ t = completeCsr u wrote ∧ CsrWriteKeeps (setX s rd (csrRead s r)) u ∧
      ∀ c, (w = true → cellWritten r ≠ some c) → cellValue u c = cellValue s c := by
  cases exec_csrOutcome hu hexec with
  | raise illegal => exact absurd ⟨r, hlegal⟩ illegal
  | read rd q dest legal =>
    obtain rfl := hlegal.unique legal
    exact ⟨rd, _, _, dest, rfl, by constructor <;> rfl, fun c _ => cellValue_setX ..⟩
  | write rd q u dest legal written =>
    obtain rfl := hlegal.unique legal
    exact ⟨rd, u, _, dest, rfl, csrWrite_keeps written,
      fun c hc => (csrWrite_cellValue written (hc rfl)).trans (cellValue_setX ..)⟩

/-- Settles O19: what the writes of `rd` and of the CSR leave, and then what the completion leaves. -/
theorem csrInstructionsChangeOnlyTheirTargets : Obligations.CsrInstructionsChangeOnlyTheirTargets := by
  intro i s t a w r hu hlegal hexec
  obtain ⟨rd, u, wrote, hd, rfl, keeps, hcells⟩ := exec_completes hu hlegal hexec
  have hregs (q : Reg) : readX (completeCsr u wrote) q =
      if destination i = some q ∧ q ≠ 0#5 then truncXlen s.cfg (csrRead s r) else readX s q := by
    rw [readX_congr (completeCsr_x ..), readX_congr keeps.x, readX_setX, hd]
    by_cases hq : q = rd
    · subst hq; simp
    · simp [hq, Ne.symm hq]
  refine ⟨?pc, ?priv, ?cfg, ?env, fun b => ?mem, hregs, ?scheduled, ?tick, fun c hc hw => ?cells⟩
  case pc => rw [completeCsr_pc, keeps.cfg, keeps.pc, setX_cfg, setX_pc]
  case priv => rw [completeCsr_priv, keeps.priv, setX_priv]
  case cfg => rw [completeCsr_cfg, keeps.cfg, setX_cfg]
  case env => rw [completeCsr_env, keeps.env, setX_env]
  case mem => rw [completeCsr_mem, keeps.mem, setX_mem]
  case scheduled => rw [completeCsr_scheduled, keeps.scheduled, setX_scheduled]
  case tick => rw [completeCsr_tick, keeps.tick, setX_tick]
  case cells => rw [cellValue_completeCsr u wrote hc, hcells c hw]

/-! ### Read-only CSRs -/

/-- No access that writes a read-only CSR is legal (10_state.md R28). -/
theorem not_accessLegal_of_readOnly {s : State} {r : Csr} (hro : csrReadOnly r = true) :
    ¬∃ q, AccessLegal s (csrAddress r) true q := by
  rintro ⟨q, h⟩
  obtain rfl : r = q := csrAddress_injective (csrAddress_of_csrAt h.found).symm
  exact h.writable ⟨rfl, hro⟩

/-- An instruction on a read-only CSR that may be read: it reads where it will not write, and raises where it would
(40_csr_instructions.md R237). -/
theorem exec_of_readOnly {i : Instr} {s : State} {rd : Reg} {r : Csr} {w : Bool} {P : Prop} [Decidable P]
    (hro : csrReadOnly r = true) (hlegal : AccessLegal s (csrAddress r) false r)
    (hu : csrUse s.cfg i = some (csrAddress r, w)) (hd : destination i = some rd) (hP : w = false ↔ P) :
    exec i s = if P then .next (completeCsr (setX s rd (csrRead s r)) none) else .next (raiseIllegal s (encode i)) := by
  cases w with
  | false =>
    rw [if_pos (hP.mp rfl)]
    exact exec_of_read hu hd hlegal
  | true =>
    rw [if_neg fun h => Bool.noConfusion (hP.mpr h)]
    exact exec_of_illegal hu (csrOperand_eq_none_iff.mpr (not_accessLegal_of_readOnly hro))

/-- Settles O20: each form's `will_write` as a condition on its operand (R231 to R236). -/
theorem readOnlyCsrsAreNeverWritten : Obligations.ReadOnlyCsrsAreNeverWritten := by
  intro s rd f r hro hlegal a reads raises
  have hzero : (f != 0#5) = false ↔ f = 0#5 := bne_eq_false_iff_eq
  exact ⟨exec_of_illegal rfl (csrOperand_eq_none_iff.mpr (not_accessLegal_of_readOnly hro)),
    exec_of_readOnly hro hlegal rfl rfl hzero, exec_of_readOnly hro hlegal rfl rfl hzero,
    exec_of_readOnly hro hlegal rfl rfl (by simp), exec_of_readOnly hro hlegal rfl rfl hzero,
    exec_of_readOnly hro hlegal rfl rfl hzero⟩

end Sys2Proof.Machine
end

section
/-! The six counter instructions (41_counter_pseudo.md R260 to R266): which counter each reads, when it may, and what it reads. -/

namespace Sys2Proof.Machine

/-- The instruction reads the user counter `r`, governed by counter-enable bit `k`, into `rd`, and has the word of the CSRRS that
does so (41_counter_pseudo.md R260). -/
structure ReadsCounter (i : Instr) (rd : Reg) (r : Csr) (k : Nat) : Prop where
  use : ∀ c, csrUse c i = some (csrAddress r, false)
  dest : destination i = some rd
  bit : csrCounterBit r = some k
  word : encode i = encode (.csrrs rd (csrAddress r) 0#5)

theorem readsCounter_rdcycle (rd : Reg) : ReadsCounter (.rdcycle rd) rd .cycle 0 := ⟨fun _ => rfl, rfl, rfl, rfl⟩
theorem readsCounter_rdcycleh (rd : Reg) : ReadsCounter (.rdcycleh rd) rd .cycleh 0 := ⟨fun _ => rfl, rfl, rfl, rfl⟩
theorem readsCounter_rdtime (rd : Reg) : ReadsCounter (.rdtime rd) rd .time 1 := ⟨fun _ => rfl, rfl, rfl, rfl⟩
theorem readsCounter_rdtimeh (rd : Reg) : ReadsCounter (.rdtimeh rd) rd .timeh 1 := ⟨fun _ => rfl, rfl, rfl, rfl⟩
theorem readsCounter_rdinstret (rd : Reg) : ReadsCounter (.rdinstret rd) rd .instret 2 := ⟨fun _ => rfl, rfl, rfl, rfl⟩
theorem readsCounter_rdinstreth (rd : Reg) : ReadsCounter (.rdinstreth rd) rd .instreth 2 := ⟨fun _ => rfl, rfl, rfl, rfl⟩

/-! ### When a user counter may be read -/

/-- Every mode is privileged enough for a user counter (10_state.md R27). -/
theorem privLe_csrMinPriv_of_counterBit {r : Csr} {k : Nat} (h : csrCounterBit r = some k) (p : Priv) :
    privLe (csrMinPriv r) p = true := by
  have huser : csrMinPriv r = .U := by
    cases r
    case cycle | time | instret | hpmcounter | cycleh | timeh | instreth | hpmcounterh => rfl
    all_goals cases h
  rw [huser]
  cases p <;> rfl

/-- A user counter may be read exactly where it exists, its enable bits permit it, and it does not trap (10_state.md R28;
11_state_supervisor_user_pmp.md R125, R127). -/
theorem csrAccessLegal_counter_iff {s : State} {r : Csr} {k : Nat} (h : csrCounterBit r = some k) :
    csrAccessLegal s r false = true ↔
      csrPresent s.cfg r = true ∧ CounterEnabled s k ∧ timeTraps s r = false := by
  have hcounter : counterAccessPermitted s r = true ↔ CounterEnabled s k := by
    simp [counterAccessPermitted_iff, h]
  simp [csrAccessLegal, privLe_csrMinPriv_of_counterBit h, hcounter, and_assoc]

/-- `time` and `timeh` trap exactly under `TIME_CSR_TRAPS` (11_state_supervisor_user_pmp.md R125). -/
theorem timeTraps_eq_timeCsrTraps (s : State) {r : Csr} (hr : r = .time ∨ r = .timeh) :
    timeTraps s r = s.cfg.timeCsrTraps := by
  obtain rfl | rfl := hr <;> exact Bool.and_true _

/-- `TIME_CSR_TRAPS` speaks of no other CSR (11_state_supervisor_user_pmp.md R125). -/
theorem timeTraps_eq_false (s : State) {r : Csr} (htime : r ≠ .time) (htimeh : r ≠ .timeh) : timeTraps s r = false := by
  rw [timeTraps, beq_false_of_ne htime, beq_false_of_ne htimeh, Bool.or_false, Bool.and_false]

/-- The `h` halves exist for XLEN = 32 alone (10_state.md R27). -/
theorem csrPresent_highCounter {c : Config} {r : Csr} (hr : r = .cycleh ∨ r = .timeh ∨ r = .instreth) :
    csrPresent c r = (c.xlen == .rv32) := by
  obtain rfl | rfl | rfl := hr <;> rfl

/-! ### What a counter instruction does -/

section

variable {i : Instr} {s : State} {rd : Reg} {r : Csr} {k : Nat}

/-- A permitted read writes `rd` with the counter and completes (41_counter_pseudo.md R260). -/
theorem ReadsCounter.exec_of_permitted (h : ReadsCounter i rd r k) (present : csrPresent s.cfg r = true)
    (enabled : CounterEnabled s k) (quiet : timeTraps s r = false) :
    exec i s = .next (advancePc (retire (setX s rd (csrRead s r)))) :=
  exec_of_read (h.use s.cfg) h.dest
    (accessLegal_csrAddress ((csrAccessLegal_counter_iff h.bit).mpr ⟨present, enabled, quiet⟩))

/-- A read that fails one of the three conditions raises, with the instruction's word as trap value (10_state.md R28). -/
theorem ReadsCounter.exec_of_forbidden (h : ReadsCounter i rd r k)
    (forbidden : timeTraps s r = true ∨ csrPresent s.cfg r = false ∨ ¬CounterEnabled s k) :
    exec i s = .next (raiseIllegal s (encode i)) := by
  refine exec_of_illegal (h.use s.cfg) (Option.eq_none_iff_forall_ne_some.mpr fun q hq => ?_)
  obtain ⟨hat, hlegal⟩ := csrOperand_eq_some.mp hq
  obtain rfl : r = q := Option.some.inj ((csrAt_csrAddress r).symm.trans hat)
  obtain ⟨present, enabled, quiet⟩ := (csrAccessLegal_counter_iff h.bit).mp hlegal
  obtain htraps | habsent | hdisabled := forbidden
  · exact Bool.false_ne_true (quiet.symm.trans htraps)
  · exact Bool.false_ne_true (habsent.symm.trans present)
  · exact hdisabled enabled

/-- A counter instruction is CSRRS of its counter with `rs1` = x0: neither writes, so the value CSRRS would compute has no part
(41_counter_pseudo.md R260). -/
theorem ReadsCounter.exec_eq_csrrs (h : ReadsCounter i rd r k) (s : State) :
    exec i s = exec (.csrrs rd (csrAddress r) 0#5) s := by
  obtain ⟨rd', hd, hexec⟩ := exec_eq_csrSequence (h.use s.cfg)
  obtain rfl : rd = rd' := Option.some.inj (h.dest.symm.trans hd)
  rw [hexec, h.word]
  rfl

end

/-! ### The obligations -/

/-- Settles O38: each instruction reads its counter as `ReadsCounter` says. -/
theorem counterInstructionsAreCsrrs : Obligations.CounterInstructionsAreCsrrs := fun s rd =>
  ⟨(readsCounter_rdcycle rd).exec_eq_csrrs s, (readsCounter_rdcycleh rd).exec_eq_csrrs s,
    (readsCounter_rdtime rd).exec_eq_csrrs s, (readsCounter_rdtimeh rd).exec_eq_csrrs s,
    (readsCounter_rdinstret rd).exec_eq_csrrs s, (readsCounter_rdinstreth rd).exec_eq_csrrs s⟩

/-- Settles O35: the low halves exist in every configuration, and the read of each is its counter truncated to XLEN bits. -/
theorem counterReadsGiveTheLowBits : Obligations.CounterReadsGiveTheLowBits := by
  intro s rd
  refine ⟨fun enabled => ?cycle, fun enabled quiet => ?time, fun enabled => ?instret⟩
  case cycle => exact (readsCounter_rdcycle rd).exec_of_permitted rfl enabled (timeTraps_eq_false s nofun nofun)
  case time =>
    exact (readsCounter_rdtime rd).exec_of_permitted rfl enabled ((timeTraps_eq_timeCsrTraps s (.inl rfl)).trans quiet)
  case instret => exact (readsCounter_rdinstret rd).exec_of_permitted rfl enabled (timeTraps_eq_false s nofun nofun)

/-- Settles O36: the high halves exist for XLEN = 32, and the read of each is its counter shifted right by 32. -/
theorem highCounterReadsGiveTheHighBits : Obligations.HighCounterReadsGiveTheHighBits := by
  intro s rd hx
  have present {r : Csr} (hr : r = .cycleh ∨ r = .timeh ∨ r = .instreth) : csrPresent s.cfg r = true := by
    rw [csrPresent_highCounter hr, hx]; rfl
  refine ⟨fun enabled => ?cycleh, fun enabled quiet => ?timeh, fun enabled => ?instreth⟩
  case cycleh =>
    exact (readsCounter_rdcycleh rd).exec_of_permitted (present (.inl rfl)) enabled (timeTraps_eq_false s nofun nofun)
  case timeh =>
    exact (readsCounter_rdtimeh rd).exec_of_permitted (present (.inr (.inl rfl))) enabled
      ((timeTraps_eq_timeCsrTraps s (.inr rfl)).trans quiet)
  case instreth =>
    exact (readsCounter_rdinstreth rd).exec_of_permitted (present (.inr (.inr rfl))) enabled
      (timeTraps_eq_false s nofun nofun)

/-- Settles O37: each of the reasons named fails one of the three conditions of `csrAccessLegal_counter_iff`. -/
theorem forbiddenCounterReadsRaise : Obligations.ForbiddenCounterReadsRaise := by
  intro s rd
  have absent {r : Csr} (hr : r = .cycleh ∨ r = .timeh ∨ r = .instreth) (hx : s.cfg.xlen = .rv64) :
      csrPresent s.cfg r = false := by
    rw [csrPresent_highCounter hr, hx]; rfl
  have traps {r : Csr} (hr : r = .time ∨ r = .timeh) (ht : s.cfg.timeCsrTraps = true) : timeTraps s r = true :=
    (timeTraps_eq_timeCsrTraps s hr).trans ht
  refine ⟨fun h => ?time, fun h => ?timeh, fun h => ?cycle, fun h => ?cycleh, fun h => ?instret, fun h => ?instreth⟩
  case time => exact (readsCounter_rdtime rd).exec_of_forbidden (h.imp (traps (.inl rfl)) .inr)
  case timeh =>
    exact (readsCounter_rdtimeh rd).exec_of_forbidden
      (h.imp (traps (.inr rfl)) (.imp_left (absent (.inr (.inl rfl)))))
  case cycle => exact (readsCounter_rdcycle rd).exec_of_forbidden (.inr (.inr h))
  case cycleh => exact (readsCounter_rdcycleh rd).exec_of_forbidden (.inr (h.imp_left (absent (.inl rfl))))
  case instret => exact (readsCounter_rdinstret rd).exec_of_forbidden (.inr (.inr h))
  case instreth =>
    exact (readsCounter_rdinstreth rd).exec_of_forbidden (.inr (h.imp_left (absent (.inr (.inr rfl)))))

end Sys2Proof.Machine
end

section
/-! The three returns from a trap (42_trap_return.md R280 to R283): when each is legal, what it does then, and that it raises
otherwise. -/

namespace Sys2Proof.Machine

/-! ### What each xRET answers -/

/-- A return writes the popped stack, the mode, the pc and the retirement count, and nothing else (R280). -/
theorem returnFromTrap_eq (s : State) (x y : Priv) (epc : Word) : returnFromTrap s x y epc =
    { s with mstatus := popStack s.cfg s.mstatus x, priv := y, pc := epc, minstret := s.minstret + 1#64 } := rfl

theorem exec_mret_of_legal {s : State} {y : Priv} (hp : s.priv = .M) (hy : modeOfCode s.cfg (getMpp s.mstatus) = some y) :
    exec .mret s = .next (returnFromTrap s .M y s.mepc) := by
  simp only [exec, execMret, hp, hy, if_true]

theorem exec_mret_of_lower {s : State} (hp : s.priv ≠ .M) : exec .mret s = .next (raiseIllegal s (encode .mret)) :=
  if_neg hp

theorem exec_sret_of_legal {s : State} (hS : s.cfg.hasS = true) (hp : s.priv ≠ .U) :
    exec .sret s = .next (returnFromTrap s .S (if s.mstatus.getLsbD bitSPP then .S else .U) s.sepc) :=
  if_pos ⟨hS, hp⟩

theorem exec_sret_of_illegal {s : State} (h : ¬(s.cfg.hasS = true ∧ s.priv ≠ .U)) :
    exec .sret s = .next (raiseIllegal s (encode .sret)) :=
  if_neg h

theorem exec_uret_of_legal {s : State} (hN : s.cfg.hasN = true) :
    exec .uret s = .next (returnFromTrap s .U .U s.uepc) :=
  if_pos hN

theorem exec_uret_of_illegal {s : State} (hN : s.cfg.hasN ≠ true) :
    exec .uret s = .next (raiseIllegal s (encode .uret)) :=
  if_neg hN

/-- The exception an xRET raises carries the instruction's word as trap value (60_exceptions.md R301). -/
theorem raiseIllegal_eq_takeTrap (s : State) (w : InstrWord) :
    raiseIllegal s w = takeTrap s (.exception .illegalInstruction) (w.setWidth 64) s.pc := rfl

/-! ### The obligations

The obligations test the bits in the order of the specification, the `getLsbD_popStack` lemmas in the order of the writes; the
tests exclude each other, so both chains give the same bit. -/

/-- Settles O39: a legal MRET pops the machine level's stack. -/
theorem mretReturnsToThePreviousMode : Obligations.MretReturnsToThePreviousMode := by
  intro s y hp hy
  refine ⟨popStack s.cfg s.mstatus .M, ?next, fun n => ?bits⟩
  case next => rw [exec_mret_of_legal hp hy, returnFromTrap_eq]
  case bits => rw [getLsbD_popStack_machine]; grind

/-- Settles O40: a legal SRET pops the supervisor level's stack. -/
theorem sretReturnsToThePreviousMode : Obligations.SretReturnsToThePreviousMode := by
  intro s hS hp
  have notUser : s.priv ≠ .U := by
    intro hU
    simp [hU] at hp
  refine ⟨popStack s.cfg s.mstatus .S, ?next, fun n => ?bits⟩
  case next => rw [exec_sret_of_legal hS notUser, returnFromTrap_eq, bitSPP]
  case bits => rw [getLsbD_popStack_supervisor]; grind

/-- Settles O41: a legal URET pops the user level's stack. -/
theorem uretReturnsToUserMode : Obligations.UretReturnsToUserMode := by
  intro s hN
  refine ⟨popStack s.cfg s.mstatus .U, ?next, fun n => ?bits⟩
  case next => rw [exec_uret_of_legal hN, returnFromTrap_eq]
  case bits => rw [getLsbD_popStack_user]; grind

/-- Settles O42: each return raises where it is not legal, and its fixed word (30_encoding.md R206) is the trap value. -/
theorem illegalReturnsRaise : Obligations.IllegalReturnsRaise := by
  intro s
  refine ⟨fun hp => ?mret, fun h => ?sret, fun hN => ?uret⟩
  case mret => rw [exec_mret_of_lower hp, raiseIllegal_eq_takeTrap]; rfl
  case sret =>
    have illegal : ¬(s.cfg.hasS = true ∧ s.priv ≠ .U) := by
      rintro ⟨hS, hp⟩
      exact h.elim (fun absent => Bool.false_ne_true (absent.symm.trans hS)) hp
    rw [exec_sret_of_illegal illegal, raiseIllegal_eq_takeTrap]; rfl
  case uret => rw [exec_uret_of_illegal (Bool.eq_false_iff.mp hN), raiseIllegal_eq_takeTrap]; rfl

end Sys2Proof.Machine
end

section
/-! Taking a trap: what trap entry writes, where the vector points, and which mode handles a trap (60_exceptions.md R320, R321,
R330, R331). -/

namespace Sys2Proof.Machine

/-! ### Trap entry -/

section
variable {s : State} {t : TrapCause} (tval epc : Word)

theorem takeTrap_of_machine (h : trapHandler s t = .M) : takeTrap s t tval epc = { s with
    mcause := causeValue s.cfg t, mepc := epcLegal s.cfg epc, mtval := truncXlen s.cfg tval
    mstatus := pushStack s.mstatus .M s.priv, priv := .M, pc := trapVector s.cfg s.mtvec t } := by
  simp only [takeTrap, h]

theorem takeTrap_of_supervisor (h : trapHandler s t = .S) : takeTrap s t tval epc = { s with
    scause := causeValue s.cfg t, sepc := epcLegal s.cfg epc, stval := truncXlen s.cfg tval
    mstatus := pushStack s.mstatus .S s.priv, priv := .S, pc := trapVector s.cfg s.stvec t } := by
  simp only [takeTrap, h]

theorem takeTrap_of_user (h : trapHandler s t = .U) : takeTrap s t tval epc = { s with
    ucause := causeValue s.cfg t, uepc := epcLegal s.cfg epc, utval := truncXlen s.cfg tval
    mstatus := pushStack s.mstatus .U s.priv, priv := .U, pc := trapVector s.cfg s.utvec t } := by
  simp only [takeTrap, h]

end

/-- Settles O43: the pushed stack is the `mstatus` of each clause; the clauses test its bits in the order of the specification,
the `getLsbD_pushStack` lemmas in the order of the writes. -/
theorem trapEntrySavesAndVectors : Obligations.TrapEntrySavesAndVectors := by
  intro s t tval epc
  refine ⟨fun h => ⟨_, takeTrap_of_machine tval epc h, fun n => ?machine⟩,
    fun h => ⟨_, takeTrap_of_supervisor tval epc h, fun n => ?supervisor⟩,
    fun h => ⟨_, takeTrap_of_user tval epc h, fun n => ?user⟩⟩
  case machine => rw [getLsbD_pushStack_machine]; grind
  case supervisor => rw [getLsbD_pushStack_supervisor]; grind
  case user => rw [getLsbD_pushStack_user]; grind

/-! ### The vector -/

/-- BASE of an xtvec value (60_exceptions.md R321). -/
def tvecBase (c : Config) (tvec : Word) : Word := truncXlen c tvec &&& ~~~3#64

theorem trapVector_exception (c : Config) (tvec : Word) (e : Exception) :
    trapVector c tvec (.exception e) = tvecBase c tvec := rfl

theorem trapVector_direct (c : Config) {tvec : Word} (h : tvec.extractLsb' 0 2 ≠ 1#2) (i : Interrupt) :
    trapVector c tvec (.interrupt i) = tvecBase c tvec :=
  if_neg h

theorem trapVector_vectored (c : Config) {tvec : Word} (h : tvec.extractLsb' 0 2 = 1#2) (i : Interrupt) :
    trapVector c tvec (.interrupt i) = truncXlen c (tvecBase c tvec + BitVec.ofNat 64 (4 * interruptCode i)) :=
  if_pos h

theorem getLsbD_and_not_three (v : Word) (n : Nat) : (v &&& ~~~3#64).getLsbD n = (decide (2 ≤ n) && v.getLsbD n) := by
  have hthree : (3#64).getLsbD n = (n == 0 || n == 1) := by
    simpa using getLsbD_eq_any 3#64 [0, 1] (by decide) (by decide) n
  rw [BitVec.getLsbD_and, BitVec.getLsbD_not, hthree]
  cases hv : v.getLsbD n with
  | false => simp
  | true => have := BitVec.lt_of_getLsbD hv; grind

theorem getLsbD_tvecBase (c : Config) (tvec : Word) (n : Nat) :
    (tvecBase c tvec).getLsbD n = (decide (2 ≤ n) && decide (n < c.xlen.bits) && tvec.getLsbD n) := by
  rw [tvecBase, getLsbD_and_not_three, getLsbD_truncXlen, Bool.and_assoc]

/-- Clearing the two low bits rounds down to a multiple of 4. -/
theorem toNat_and_not_three (v : Word) : (v &&& ~~~3#64).toNat = v.toNat / 4 * 4 := by
  have hdiv : (v &&& ~~~3#64).toNat / 4 = v.toNat / 4 := by
    refine Nat.eq_of_testBit_eq fun n => ?_
    simp only [show (4 : Nat) = 2 ^ 2 from rfl, Nat.testBit_div_two_pow, BitVec.testBit_toNat, getLsbD_and_not_three]
    simp
  have hmod := and_not_three_mod_four v
  omega

theorem toNat_tvecBase (c : Config) (tvec : Word) :
    (tvecBase c tvec).toNat = tvec.toNat % 2 ^ c.xlen.bits / 4 * 4 := by
  rw [tvecBase, toNat_and_not_three, toNat_truncXlen]

/-- Settles O44: every case but the vectored interrupt goes to BASE; the sum of the vectored one is taken in 64 bits and then cut
to XLEN, which is the remainder modulo 2^XLEN. -/
theorem trapsVectorToBaseOrBasePlusFourTimesCause : Obligations.TrapsVectorToBaseOrBasePlusFourTimesCause := by
  intro c tvec
  refine ⟨fun e n => ?exception, fun i h n => ?direct, fun i h => ?vectored⟩
  case exception => rw [trapVector_exception, getLsbD_tvecBase]
  case direct => rw [trapVector_direct c h, getLsbD_tvecBase]
  case vectored =>
    have hxlen : 2 ^ c.xlen.bits ∣ 2 ^ 64 := Nat.pow_dvd_pow 2 (by cases c.xlen <;> decide)
    rw [trapVector_vectored c h, toNat_truncXlen, BitVec.toNat_add, BitVec.toNat_ofNat, Nat.add_mod_mod,
      Nat.mod_mod_of_dvd _ hxlen, toNat_tvecBase]

/-! ### The handling mode -/

section
variable {s : State}

theorem exceptionHandler_eq_machine_iff {e : Exception} :
    exceptionHandler s e = .M ↔ s.priv = .M ∨ s.medeleg.getLsbD (exceptionCode e) = false := by
  unfold exceptionHandler
  split_ifs <;> simp_all

theorem exceptionHandler_eq_supervisor_iff {e : Exception} : exceptionHandler s e = .S ↔
    s.priv ≠ .M ∧ s.medeleg.getLsbD (exceptionCode e) = true ∧ s.cfg.hasS = true ∧
      ¬(s.priv = .U ∧ s.cfg.hasN = true ∧ s.sedeleg.getLsbD (exceptionCode e) = true) := by
  unfold exceptionHandler
  split_ifs <;> simp_all

theorem exceptionHandler_eq_user_iff {e : Exception} : exceptionHandler s e = .U ↔
    s.priv ≠ .M ∧ s.medeleg.getLsbD (exceptionCode e) = true ∧
      (s.cfg.hasS = true → s.priv = .U ∧ s.cfg.hasN = true ∧ s.sedeleg.getLsbD (exceptionCode e) = true) := by
  unfold exceptionHandler
  split_ifs <;> simp_all

theorem interruptHandler_eq_machine_iff {i : Interrupt} :
    interruptHandler s i = .M ↔ s.mideleg.getLsbD (interruptCode i) = false := by
  unfold interruptHandler
  split_ifs <;> simp_all

theorem interruptHandler_eq_supervisor_iff {i : Interrupt} : interruptHandler s i = .S ↔
    s.mideleg.getLsbD (interruptCode i) = true ∧ s.cfg.hasS = true ∧
      ¬(s.cfg.hasN = true ∧ s.sideleg.getLsbD (interruptCode i) = true) := by
  unfold interruptHandler
  split_ifs <;> simp_all

theorem interruptHandler_eq_user_iff {i : Interrupt} : interruptHandler s i = .U ↔
    s.mideleg.getLsbD (interruptCode i) = true ∧
      (s.cfg.hasS = true → s.cfg.hasN = true ∧ s.sideleg.getLsbD (interruptCode i) = true) := by
  unfold interruptHandler
  split_ifs <;> simp_all

end

/-- Settles O45: each handling mode by its condition. -/
theorem delegationChoosesTheHandler : Obligations.DelegationChoosesTheHandler := fun _ =>
  ⟨fun _ => ⟨exceptionHandler_eq_machine_iff, exceptionHandler_eq_supervisor_iff, exceptionHandler_eq_user_iff⟩,
    fun _ => ⟨interruptHandler_eq_machine_iff, interruptHandler_eq_supervisor_iff, interruptHandler_eq_user_iff⟩⟩

end Sys2Proof.Machine
end

section
/-! Interrupts: which are takeable, which one a step takes, and that it is taken instead of the fetch (60_exceptions.md R311 to
R314, R360). -/

namespace Sys2Proof.Machine

/-! ### Takeable interrupts -/

theorem globallyEnabled_iff {s : State} {handler : Priv} : globallyEnabled s handler = true ↔
    (handler = .M ∧ (s.priv ≠ .M ∨ s.mstatus.getLsbD 3 = true)) ∨
      (handler = .S ∧ (s.priv = .U ∨ (s.priv = .S ∧ s.mstatus.getLsbD 1 = true))) ∨
      (handler = .U ∧ s.priv = .U ∧ s.mstatus.getLsbD 0 = true) := by
  cases handler <;> simp [globallyEnabled, getIE, bitMIE, bitSIE, bitUIE]

theorem takeable_iff {s : State} {i : Interrupt} : takeable s i = true ↔
    ((mipRead s).getLsbD (interruptCode i) = true ∧ s.mie.getLsbD (interruptCode i) = true) ∧
      globallyEnabled s (interruptHandler s i) = true := by
  simp only [takeable, Bool.and_eq_true]
  tauto

/-- Settles O48: the global enabling of `takeable_iff`, written out per handling mode. -/
theorem pendingEnabledInterruptsAreTakeable : Obligations.PendingEnabledInterruptsAreTakeable := fun _ _ =>
  takeable_iff.trans (and_congr_right' globallyEnabled_iff)

/-! ### The chosen interrupt -/

/-- The first element of a list that satisfies a test stands before every other that does. -/
theorem idxOf_le_of_find?_eq_some {α : Type} [DecidableEq α] {l : List α} {p : α → Bool} {i j : α}
    (hi : l.find? p = some i) (hj : p j = true) : l.idxOf i ≤ l.idxOf j := by
  obtain ⟨hpi, before, after, rfl, hbefore⟩ := List.find?_eq_some_iff_append.mp hi
  have notBefore {k : α} (hk : p k = true) : k ∉ before := fun hmem => by simpa [hk] using hbefore k hmem
  rw [List.idxOf_append_of_notMem (notBefore hpi), List.idxOf_append_of_notMem (notBefore hj), List.idxOf_cons_self]
  omega

theorem mem_interruptOrder (i : Interrupt) : i ∈ interruptOrder := by cases i <;> decide

section
variable {s : State}

/-- No interrupt is picked for a mode exactly when none that the mode handles is takeable. -/
theorem pickFor_eq_none_iff {handler : Priv} :
    pickFor s handler = none ↔ ∀ i, takeable s i = true → interruptHandler s i ≠ handler := by
  simp [pickFor, List.find?_eq_none, mem_interruptOrder]

/-- The interrupt picked for a mode: takeable, handled there, and first in the order of R314. -/
theorem pickFor_eq_some {handler : Priv} {i : Interrupt} (h : pickFor s handler = some i) :
    takeable s i = true ∧ interruptHandler s i = handler ∧
      ∀ j, takeable s j = true → interruptHandler s j = handler → interruptOrder.idxOf i ≤ interruptOrder.idxOf j := by
  have hi := List.find?_some h
  rw [Bool.and_eq_true, beq_iff_eq] at hi
  obtain ⟨htake, hhandler⟩ := hi
  exact ⟨htake, hhandler, fun j hj hjh => idxOf_le_of_find?_eq_some h (by simp [hj, hjh])⟩

/-- No interrupt is chosen exactly when none is picked for any mode (R314). -/
theorem pickInterrupt_eq_none_iff : pickInterrupt s = none ↔ ∀ handler, pickFor s handler = none := by
  unfold pickInterrupt
  constructor
  · intro h
    split at h
    · cases h
    · next hM =>
      split at h
      · cases h
      · next hS => exact fun handler => by cases handler <;> assumption
  · intro h
    simp only [h]

/-- The chosen interrupt is the one picked for its own handling mode, and nothing is picked for a higher mode (R314). -/
theorem pickInterrupt_eq_some {i : Interrupt} (h : pickInterrupt s = some i) :
    pickFor s (interruptHandler s i) = some i ∧
      ∀ handler, privLe handler (interruptHandler s i) = false → pickFor s handler = none := by
  unfold pickInterrupt at h
  split at h
  · next hM =>
    cases h
    obtain ⟨-, hhandler, -⟩ := pickFor_eq_some hM
    rw [hhandler]
    exact ⟨hM, fun handler hlt => by cases handler <;> cases hlt⟩
  · next hM =>
    split at h
    · next hS =>
      cases h
      obtain ⟨-, hhandler, -⟩ := pickFor_eq_some hS
      rw [hhandler]
      refine ⟨hS, fun handler hlt => ?_⟩
      cases handler with
      | M => exact hM
      | S => cases hlt
      | U => cases hlt
    · next hS =>
      obtain ⟨-, hhandler, -⟩ := pickFor_eq_some h
      rw [hhandler]
      refine ⟨h, fun handler hlt => ?_⟩
      cases handler with
      | M => exact hM
      | S => exact hS
      | U => cases hlt

theorem takeable_of_pickInterrupt {i : Interrupt} (h : pickInterrupt s = some i) : takeable s i = true :=
  (pickFor_eq_some (pickInterrupt_eq_some h).1).1

end

/-- Settles O49: a takeable interrupt of a higher mode, or an earlier one of the same mode, would have been picked. -/
theorem theHighestPriorityInterruptIsTaken : Obligations.TheHighestPriorityInterruptIsTaken := by
  intro s
  refine ⟨?none, fun i hi => ⟨takeable_of_pickInterrupt hi, fun j hj => ⟨?mode, ?order⟩⟩⟩
  case none =>
    simp only [pickInterrupt_eq_none_iff, pickFor_eq_none_iff]
    exact ⟨fun h i => Bool.eq_false_iff.mpr fun hi => h _ i hi rfl,
      fun h _ i hi => absurd hi (Bool.eq_false_iff.mp (h i))⟩
  case mode =>
    obtain ⟨-, hhigher⟩ := pickInterrupt_eq_some hi
    by_contra hlt
    exact pickFor_eq_none_iff.mp (hhigher _ (Bool.eq_false_iff.mpr hlt)) j hj rfl
  case order =>
    obtain ⟨hpick, -⟩ := pickInterrupt_eq_some hi
    obtain ⟨-, -, hfirst⟩ := pickFor_eq_some hpick
    exact hfirst j hj

/-! ### The step that takes it -/

/-- Settles O7: sampling the inputs changes only `mcycle64`, which the choice of the interrupt does not read. -/
theorem stepTakesTheChosenInterrupt : Obligations.StepTakesTheChosenInterrupt := by
  intro s i hnmi hpick
  have hsampled : pickInterrupt (sampleInputs s) = some i := hpick
  simp only [step, hartStep, hnmi, Bool.false_eq_true, if_false, interruptOrExec, hsampled]
  rfl

end Sys2Proof.Machine
end

section
/-! One step of the hart that executes: the instruction at the pc between the sampling of the inputs and their change
(60_exceptions.md R360; 70_reset_and_hazards.md R381). -/

namespace Sys2Proof.Machine

/-- A ready state whose word decodes takes no interrupt and runs the instruction (R360). -/
theorem Ready.interruptOrExec {s : State} {w : InstrWord} {i : Instr} (h : Ready s w) (hd : decodeWord w = .ok i) :
    interruptOrExec (sampleInputs s) = exec i (sampleInputs s) := by
  have hsampled : pickInterrupt (sampleInputs s) = none := h.no_interrupt
  have hbytes : decodeBytes (wordBytes w) = .ok (i, []) := by rw [decodeBytes_wordBytes, hd]; rfl
  simp only [Machine.interruptOrExec, hsampled, fetchAndExec, h.fetchBytes, hbytes]

/-- The end of a step changes the inputs, the schedule and the step number alone (R381). -/
theorem endStep_eq (t : State) :
    endStep t = { t with env := (endStep t).env, scheduled := t.scheduled.tail, tick := t.tick + 1 } := by
  cases h : t.scheduled <;> simp only [endStep, h, List.tail]

/-- Scheduled inputs come next, under the laws of R125 and R340. -/
theorem endStep_env_of_scheduled {t : State} {next : Inputs} {rest : List Inputs} (h : t.scheduled = next :: rest) :
    (endStep t).env = lawfulInputs t.env next := by
  simp only [endStep, h]

/-- A draw whose time does not go back keeps its time (R125). -/
theorem lawfulInputs_time {before drawn : Inputs} (h : before.time.toNat ≤ drawn.time.toNat) :
    (lawfulInputs before drawn).time = drawn.time :=
  if_neg (Nat.not_lt.mpr h)

/-- Settles O6: the step of a ready state, the sampling, and the inputs the end of a step leaves. -/
theorem stepRunsTheDecodedInstruction : Obligations.StepRunsTheDecodedInstruction := by
  refine ⟨fun s w i hready hd => ?exec, fun s => rfl,
    fun t => ⟨(endStep t).env, endStep_eq t, endStep_nmi t, endStep_time_le t, fun next rest hsched => ?inputs⟩⟩
  case exec =>
    cases hexec : exec i (sampleInputs s) <;>
      simp only [step, hartStep, hready.nmi_quiet, Bool.false_eq_true, if_false, hready.interruptOrExec hd, hexec]
  case inputs =>
    rw [endStep_env_of_scheduled hsched]
    exact ⟨rfl, rfl, rfl, rfl, rfl, rfl, lawfulInputs_time⟩

end Sys2Proof.Machine
end

section
/-! How the mode moves: traps never lower it, returns never raise it, CSR accesses keep it (60_exceptions.md R312, R330, R345). -/

namespace Sys2Proof.Machine

@[simp] theorem privLe_machine (p : Priv) : privLe p .M = true := by cases p <;> rfl

@[simp] theorem privLe_user (p : Priv) : privLe .U p = true := by cases p <;> rfl

@[simp] theorem privLe_refl (p : Priv) : privLe p p = true := by cases p <;> rfl

/-! ### Traps -/

/-- An exception is handled at its own mode or above (R330): from S-mode only U would be below, and where S-mode is implemented an
exception reaches U from U alone. -/
theorem Wf.privLe_exceptionHandler {s : State} (hs : Wf s) (e : Exception) : privLe s.priv (exceptionHandler s e) = true := by
  cases hp : s.priv with
  | U => exact privLe_user _
  | M => rw [exceptionHandler_eq_machine_iff.mpr (.inl hp)]; rfl
  | S =>
    have hS : s.cfg.hasS = true := by simpa only [hp, hasMode] using hs.priv_implemented
    cases he : exceptionHandler s e with
    | M => rfl
    | S => rfl
    | U =>
      obtain ⟨-, -, hpass⟩ := exceptionHandler_eq_user_iff.mp he
      rw [hp] at hpass
      exact absurd (hpass hS).1 (by decide)

/-- Interrupts are globally enabled only for handling modes not below the current one (R312). -/
theorem privLe_of_globallyEnabled {s : State} {handler : Priv} (h : globallyEnabled s handler = true) :
    privLe s.priv handler = true := by
  obtain ⟨rfl, -⟩ | ⟨rfl, hp | ⟨hp, -⟩⟩ | ⟨rfl, hp, -⟩ := globallyEnabled_iff.mp h
  · exact privLe_machine _
  · rw [hp]; rfl
  · rw [hp]; rfl
  · rw [hp]; rfl

/-- Settles O46: delegation never passes an exception below its mode, and an interrupt taken is globally enabled. -/
theorem trapsNeverLowerThePrivilege : Obligations.TrapsNeverLowerThePrivilege := by
  refine fun s hs => ⟨hs.privLe_exceptionHandler, fun i hi => ?_⟩
  obtain ⟨-, henabled⟩ := takeable_iff.mp (takeable_of_pickInterrupt hi)
  exact privLe_of_globallyEnabled henabled

/-! ### Instructions -/

theorem Wf.privLe_raiseIllegal {s : State} (hs : Wf s) (w : InstrWord) : privLe s.priv (raiseIllegal s w).priv = true := by
  rw [raiseIllegal_eq_takeTrap, takeTrap_priv]
  exact hs.privLe_exceptionHandler .illegalInstruction

/-- A return never raises the mode (42_trap_return.md R280 to R283): SRET, legal from S-mode and M-mode, goes to S or U. -/
theorem ReturnEffect.privLe {s t : State} (h : ReturnEffect s t) : privLe t.priv s.priv = true := by
  cases h with
  | mret y mode mpp => rw [mode]; exact privLe_machine _
  | sret implemented mode =>
    rw [returnFromTrap_priv]
    cases hp : s.priv with
    | U => exact absurd hp mode
    | S => split <;> rfl
    | M => exact privLe_machine _
  | uret implemented => exact privLe_user _

/-- Settles O59: an instruction without a CSR raises or returns, one with a CSR raises or keeps the mode. -/
theorem privilegeRisesByTrapsAndFallsByReturns : Obligations.PrivilegeRisesByTrapsAndFallsByReturns := by
  intro i s t hs h
  cases hu : csrUse s.cfg i with
  | none =>
    obtain rfl | hret := exec_return hu h
    · exact .inl ⟨rfl, hs.privLe_raiseIllegal _⟩
    · exact .inr (.inl ⟨csrUse_eq_none_iff.mp hu, hret.privLe⟩)
  | some use =>
    obtain ⟨a, w⟩ := use
    have used : some (a, w) ≠ none := Option.some_ne_none _
    cases exec_csrOutcome hu h with
    | raise illegal => exact .inl ⟨rfl, hs.privLe_raiseIllegal _⟩
    | read rd r dest legal => exact .inr (.inr ⟨used, by rw [completeCsr_priv, setX_priv]⟩)
    | write rd r u dest legal written =>
      exact .inr (.inr ⟨used, by rw [completeCsr_priv, (csrWrite_keeps written).priv, setX_priv]⟩)

end Sys2Proof.Machine
end

section
/-! The states after reset: the model's own initial state is well formed, and from every legal reset state the first step runs the
word at `PC_INIT` (70_reset_and_hazards.md R371 to R373). -/

namespace Sys2Proof.Machine

/-! ### Zero is a legal value of every register -/

theorem fits_zero (c : Config) : Fits c 0#64 := by
  rw [fits_iff]
  simp

theorem within_zero (mask : Word) : Within 0#64 mask := BitVec.zero_and

theorem tvecLegal_zero (c : Config) : tvecLegal c 0#64 = 0#64 :=
  BitVec.eq_of_getLsbD_eq fun n _ => by simp [getLsbD_tvecLegal]

theorem epcLegal_zero (c : Config) : epcLegal c 0#64 = 0#64 := epcLegal_of_mod_four (fits_zero c) rfl

theorem pmpaddrLegal_zero (c : Config) : pmpaddrLegal c 0#64 = 0#64 := by
  unfold pmpaddrLegal
  cases c.xlen <;> rfl

/-- The value 0 is that of a misaligned instruction address, the first row of the cause table (10_state.md R71). -/
theorem causeListed_zero (c : Config) : causeListed c 0#64 = true :=
  causeListed_iff.mpr ⟨.exception .instructionMisaligned, rfl⟩

/-! ### The initial state of the model -/

/-- `PC_INIT` is a legal pc: an XLEN-bit value, 4-byte aligned (R372). -/
theorem epcLegal_pcInit {c : Config} (h : c.Legal) : epcLegal c c.pcInit = c.pcInit := by
  have fits : Fits c c.pcInit :=
    BitVec.eq_of_toNat_eq ((toNat_truncXlen c c.pcInit).trans (Nat.mod_eq_of_lt h.pc_init_fits))
  have aligned : c.pcInit.toNat % 4 = 0 := by
    simpa [BitVec.extractLsb'_toNat] using congrArg BitVec.toNat h.pc_init_aligned
  exact epcLegal_of_mod_four fits aligned

theorem State.initial_mstatus (c : Config) : (State.initial c).mstatus = if c.hasU then 0#64 else 0x1800#64 := rfl

/-- MPP names U-mode where it is implemented and M-mode where it is not (log entry 4). -/
theorem State.initial_mpp (c : Config) :
    getMpp (State.initial c).mstatus = if c.hasU then privCode .U else privCode .M := by
  rw [State.initial_mstatus]
  cases c.hasU <;> decide

/-- No bit of `mstatus` outside MPP is set (log entry 4). -/
theorem State.initial_mstatus_bit {c : Config} {n : Nat} (h : (State.initial c).mstatus.getLsbD n = true) : n = 11 ∨ n = 12 := by
  have hmpp : (0x1800#64).getLsbD n = (n == 11 || n == 12) := by
    simpa using getLsbD_eq_any 0x1800#64 [11, 12] (by decide) (by decide) n
  rw [State.initial_mstatus] at h
  cases hU : c.hasU with
  | true => simp [hU] at h
  | false => simpa [hU, hmpp] using h

theorem State.initial_mpp_legal (c : Config) : mppLegal c (getMpp (State.initial c).mstatus) = true := by
  rw [State.initial_mpp]
  cases hU : c.hasU <;> simp [mppLegal, modeOfCode, privCode, hU]

theorem State.initial_mstatus_within (c : Config) : Within (State.initial c).mstatus (mstatusMask c) := by
  refine (within_iff _ _).mpr fun n hn => ?_
  rw [getLsbD_mstatusMask, decide_eq_true_eq]
  obtain rfl | rfl := State.initial_mstatus_bit hn <;> simp [MstatusStores]

theorem State.initial_x (c : Config) (r : Fin 32) : (State.initial c).x[r] = 0#64 := Vector.getElem_replicate _

theorem State.initial_pmpcfg (c : Config) (i : Fin 16) : (State.initial c).pmpcfg[i] = 0#8 := Vector.getElem_replicate _

theorem State.initial_pmpaddr (c : Config) (i : Fin 16) : (State.initial c).pmpaddr[i] = 0#64 := Vector.getElem_replicate _

theorem wf_initial {c : Config} (h : c.Legal) : Wf (State.initial c) where
  cfg_legal := h
  mem_canonical := rfl
  x_fits r := by rw [State.initial_x]; exact fits_zero c
  x_zero := State.initial_x c 0
  pc_aligned := epcLegal_pcInit h
  priv_implemented := rfl
  mstatus_within := State.initial_mstatus_within c
  mpp_implemented := State.initial_mpp_legal c
  medeleg_within := within_zero _
  mideleg_within := within_zero _
  sedeleg_within := within_zero _
  sideleg_within := within_zero _
  mie_within := within_zero _
  mip_within := within_zero _
  mtvec_legal := tvecLegal_zero c
  stvec_legal := tvecLegal_zero c
  utvec_legal := tvecLegal_zero c
  mepc_legal := epcLegal_zero c
  sepc_legal := epcLegal_zero c
  uepc_legal := epcLegal_zero c
  plain_fits := by simp only [State.initial, fits_zero, and_self]
  scause_listed := causeListed_zero c
  counteren_legal := ⟨BitVec.zero_and, BitVec.zero_and⟩
  pmpcfg_legal i := by rw [State.initial_pmpcfg]; rfl
  pmpaddr_legal i := by rw [State.initial_pmpaddr]; exact pmpaddrLegal_zero c
  pmp_absent i _ := ⟨State.initial_pmpcfg c i, State.initial_pmpaddr c i⟩
  nmi_quiet := rfl

theorem isReset_initial {c : Config} (h : c.Legal) : IsReset (State.initial c) where
  wf := wf_initial h
  pc_init := rfl
  machine_mode := rfl
  mie_clear := Bool.eq_false_iff.mpr fun hbit => absurd (State.initial_mstatus_bit hbit) (by decide)
  mprv_clear := Bool.eq_false_iff.mpr fun hbit => absurd (State.initial_mstatus_bit hbit) (by decide)
  pmp_unlocked i := by rw [State.initial_pmpcfg]; rfl
  pmp_off i := by rw [State.initial_pmpcfg]; rfl

theorem t32_legal : Config.t32.Legal := by
  constructor <;> decide

/-- Settles O54: 0 is legal in every register that starts at 0; the pc and MPP are legal by the configuration's own constraints. -/
theorem resetLeavesALegalState : Obligations.ResetLeavesALegalState :=
  ⟨fun _ => isReset_initial, t32_legal, isReset_initial t32_legal⟩

/-! ### The first step after reset -/

section
variable {s : State} (h : IsReset s)
include h

/-- In M-mode with MIE = 0 no interrupt is globally enabled, in whichever mode it is handled (R372; 60_exceptions.md R312). -/
theorem IsReset.not_globallyEnabled (handler : Priv) : ¬globallyEnabled s handler = true := by
  rw [globallyEnabled_iff, h.machine_mode]
  rintro (⟨-, hmode | hmie⟩ | ⟨-, hmode | ⟨hmode, -⟩⟩ | ⟨-, hmode, -⟩)
  · exact hmode rfl
  · exact absurd (h.mie_clear.symm.trans hmie) (by decide)
  all_goals cases hmode

theorem IsReset.pickInterrupt_eq_none : pickInterrupt s = none := by
  simp only [pickInterrupt_eq_none_iff, pickFor_eq_none_iff]
  exact fun _ i hi => absurd (takeable_iff.mp hi).2 (h.not_globallyEnabled _)

/-- Every entry is OFF, so none touches an access (R372; 20_memory.md R173). -/
theorem IsReset.pmpMatch_eq_none (addr n : Nat) : pmpMatch s addr n = none :=
  pmpMatch_eq_none_of fun i _ => by
    rw [pmpRegion_off (h.pmp_off i), regionTouches_iff]
    rintro ⟨b, -, -, -, hb⟩
    exact Nat.not_lt_zero b hb

/-- After reset every fetch passes: no entry matches and the mode is M (R372; 20_memory.md R176). -/
theorem IsReset.fetch_permitted (addr n : Nat) : pmpCheck s addr n .fetch s.priv = .ok :=
  (pmpCheck_of_no_match (h.pmpMatch_eq_none addr n) .fetch s.priv).mpr (.inl h.machine_mode)

/-- A reset state with a word at `PC_INIT` is ready to run it (R372, R373). -/
theorem IsReset.ready {w : InstrWord} (hw : HoldsWord s.mem s.cfg.pcInit.toNat w) : Ready s w where
  nmi_quiet := h.wf.nmi_quiet
  no_interrupt := h.pickInterrupt_eq_none
  fetch_permitted := h.fetch_permitted _ _
  word_present := h.pc_init ▸ hw

end

/-- Settles O55: a reset state is ready, and a ready state runs its word (O6). -/
theorem theFirstInstructionRunsFromAnyReset : Obligations.TheFirstInstructionRunsFromAnyReset := by
  intro s w i hs hw hd
  obtain ⟨runs, -⟩ := stepRunsTheDecodedInstruction
  exact runs s w i (hs.ready hw) hd

end Sys2Proof.Machine
end
